-- ==== Sys2Proof/Word.lean ====
section
/-! DEFINITION. The words the block handles: bytes, line levels, pin write events, the power flag (R6, R7, R13, R16). -/

namespace Sys2Proof

/-- A byte: an 8-bit unsigned value, bit 0 the least significant (R6). -/
abbrev Byte := BitVec 8

/-- A line level: `false` is 0 (low), `true` is 1 (high) (R6). -/
abbrev Level := Bool

/-- The two output lines of the block (R16). -/
inductive Line where
  | clk
  | dio
deriving DecidableEq, Repr

/-- One pin write `emit(L, v)`, an event of the trace (R7, R16). -/
structure Event where
  line : Line
  level : Level
deriving DecidableEq, Repr

/-- `C0` and `C1` of the spec's traces: a write of the clock line (R7). -/
def Event.c (v : Level) : Event := ⟨.clk, v⟩

/-- `D0` and `D1` of the spec's traces: a write of the data line (R7). -/
def Event.d (v : Level) : Event := ⟨.dio, v⟩

/-- The power flag `PWR`: off is the number 0, on is the number 8, and there is no other value (R13, C1). -/
inductive Power where
  | off
  | on
deriving DecidableEq, Repr

/-- The number `PWR` contributes to the display-control byte: 0 or 8 (R13). -/
def Power.number : Power → Byte
  | .off => 0#8
  | .on => 8#8

end Sys2Proof
end

