-- ==== Sys2Proof/Config.lean ====
section
/-! DEFINITION. The implementation parameters of the block (R4) and their domains. A parameter is fixed when the block is
built; the values stand in a field of State that no step writes, so that a statement about every state holds for every
value of the parameters (log 3). `REQ_PACKING` is not defined by the spec and packs nothing here (R62, log 1). -/

namespace Sys2Proof

/-- The parameters of R4. -/
structure Params where
  /-- `N`, the number of digit positions. -/
  n : Nat
  /-- `INIT_LEVEL`, the initial intensity on the public 1 to 8 scale. -/
  initLevel : Nat
  /-- `INTENSITY_DATA_CMD` (OPEN): `INTENSITY` with level 1 or more sends a data command first. -/
  intensityDataCmd : Bool
  /-- `HEX_ORDER` (OPEN): the order in which `SHOWHEX` writes positions 0 to 3. -/
  hexOrder : List Nat
  /-- `DP_WRITEBACK`: `TOGGLEDP` stores the modified byte back. -/
  dpWriteback : Bool
deriving DecidableEq, Repr

/-- Every parameter is in the domain R4 gives it. -/
def Params.valid (p : Params) : Bool :=
  decide (1 ≤ p.n) && decide (p.n ≤ 64) && decide (1 ≤ p.initLevel) && decide (p.initLevel ≤ 8)
    && p.hexOrder.isPerm [0, 1, 2, 3]

/-- The values R4 gives this hardware, with the defaults R4 names for its two OPEN parameters. -/
def Config.hardware : Params :=
  { n := 4, initLevel := 7, intensityDataCmd := false, hexOrder := [0, 1, 2, 3], dpWriteback := true }

end Sys2Proof
end

