-- ==== Sys2Proof/Machine/Operands.lean ====
section
/-! DEFINITION. Operand assembly: every reduction an operand goes through before it is used (R38, R57, R60, R61). All are
exact and total; no operand is rejected (R100, R115, R121). -/

namespace Sys2Proof.Machine

/-- `pos mod N` (R38, R57). -/
def position (p : Params) (pos : Nat) : Nat :=
  pos % p.n

/-- `value mod 16`, the address in the digit table (R60). -/
def digitAddress (value : Nat) : Nat :=
  value % 16

/-- The nibble of a hex operand for position `k`: `n0 = value[15:12]`, ..., `n3 = value[3:0]` (R37, R60). -/
def nibble (value : BitVec 16) (k : Nat) : Nat :=
  (value.extractLsb' (4 * (3 - k)) 4).toNat

/-- Entry `i` of a `SHOWDIGITARRAY` operand: the digit to show, or `none` for the blank glyph when the entry is missing or
is not in 0..9 (R61, R104). -/
def arrayDigit (values : List Nat) (i : Nat) : Option Nat :=
  match values[i]? with
  | some v => if v ≤ 9 then some v else none
  | none => none

/-- Entry `i` of a `SHOWSEGMENTARRAY` operand: `bytes[i]`, or `0x00` when it is missing (R61, R106). -/
def arrayByte (bytes : List Byte) (i : Nat) : Byte :=
  bytes.getD i 0x00#8

/-- Bit 7 set when `shown`, cleared otherwise, bits 6..0 kept: `b | 0x80` or `b & 0x7F` (R110, R115). -/
def withPoint (shown : Bool) (b : Byte) : Byte :=
  if shown then b ||| 0x80#8 else b &&& 0x7F#8

end Sys2Proof.Machine
end

