-- ==== Sys2Proof/Machine/DigitTable.lean ====
section
/-! DEFINITION. The digit encoding table `LUT`: sixteen constant bytes, held as data because they follow no formula (R18,
R90, R92, R93). -/

namespace Sys2Proof.Machine

/-- The contents of `LUT` at addresses 0 to 15 (R90). -/
def lut : List Byte :=
  [0x3F#8, 0x06#8, 0x5B#8, 0x4F#8, 0x66#8, 0x6D#8, 0x7D#8, 0x07#8,
    0x7F#8, 0x6F#8, 0x77#8, 0x7C#8, 0x39#8, 0x5E#8, 0x79#8, 0x71#8]

/-- `LUT[value mod 16]`, the segment pattern of a digit (R31, R91). -/
def segmentPattern (value : Nat) : Byte :=
  lut.getD (digitAddress value) 0x00#8

end Sys2Proof.Machine
end

