-- ==== Sys2Proof/Syntax.lean ====
section
/-! DEFINITION. Syntax: the operations of the block, one constructor per row of spec/opcode_table.json (R63 and R52 to
R55), and the request by which the host selects one (R62). -/

namespace Sys2Proof

/-- One request, decoded: an operation with its operands in the types of R62. The last three constructors are the rows of
format WIRE8 of the opcode table, first bytes of frames (R52); see log 2 for what running one means. -/
inductive Instr where
  /-- `INIT`, the construction sequence (R101). -/
  | init
  /-- `START`, the start condition (R71). -/
  | start
  /-- `STOP`, the stop condition (R72). -/
  | stop
  /-- `WRITEBYTE b`, the byte serialiser (R73). -/
  | writebyte (b : Byte)
  /-- `DATACMD`, the data command frame (R80). -/
  | datacmd
  /-- `ADDRDATA pos, data`, the address and data frame (R81). -/
  | addrdata (pos : Nat) (data : Byte)
  /-- `DISPCTRL`, the display control frame (R82). -/
  | dispctrl
  /-- `DAT pos, data`, the wrapped single-digit write (R83). -/
  | dat (pos : Nat) (data : Byte)
  /-- `ENC value`, the digit table lookup (R91). -/
  | enc (value : Nat)
  /-- `INTENSITY level` (R102). -/
  | intensity (level : Int)
  /-- `SHOWDIGIT value, pos` (R103). -/
  | showdigit (value pos : Nat)
  /-- `SHOWDIGITARRAY values, blankPos` (R104, R107). -/
  | showdigitarray (values : List Nat) (blankPos : Nat)
  /-- `SHOWSEGMENT pos, rawByte` (R105). -/
  | showsegment (pos : Nat) (rawByte : Byte)
  /-- `SHOWSEGMENTARRAY bytes` (R106). -/
  | showsegmentarray (bytes : List Byte)
  /-- `SHOWHEX value`, a 16-bit pattern (R108). -/
  | showhex (value : BitVec 16)
  /-- `TOGGLEDP pos, show` (R110). -/
  | toggledp (pos : Nat) (shown : Bool)
  /-- `CLEAR` (R111). -/
  | clear
  /-- `ON` (R112). -/
  | on
  /-- `OFF` (R113). -/
  | off
  /-- `WIRE.DATA`, the data command byte `0x40` (R53). -/
  | wireData
  /-- `WIRE.ADDR`, the address command byte `0xC0 | a` (R54). -/
  | wireAddr (a : BitVec 6)
  /-- `WIRE.CTRL`, the display-control byte with power bit `p` and brightness `b` (R55). -/
  | wireCtrl (p : Bool) (b : BitVec 3)
deriving DecidableEq, Repr

/-- One operand as the host presents it beside the selector: a separate typed value (R62, D6). -/
inductive Operand where
  | byte (b : Byte)
  | nat (n : Nat)
  | int (z : Int)
  | hex (v : BitVec 16)
  | flag (b : Bool)
  | nats (l : List Nat)
  | bytes (l : List Byte)
deriving DecidableEq, Repr

/-- What the host presents at the request port. `opsel5` is the request of R62: the selector `OPSEL[4:0]` and its typed
operands. `wire8` presents a byte pattern of format WIRE8; it is the model's own form (log 2). -/
inductive Request where
  | opsel5 (opsel : BitVec 5) (operands : List Operand)
  | wire8 (b : Byte)
deriving DecidableEq, Repr

end Sys2Proof
end

