-- ==== Sys2Proof/WellFormed.lean ====
section
/-! DEFINITION. Well-formed operations: what the types of Syntax do not already say. Both checks depend on the digit
count `N`. Every other operand type of R62 is exactly the type of its field. -/

namespace Sys2Proof

/-- `bytes[]` is a list of length at most `N` (R61, R62); a wire address is below `N` (R42, R54). -/
def Instr.wellFormed (cfg : Params) : Instr → Bool
  | .showsegmentarray bytes => decide (bytes.length ≤ cfg.n)
  | .wireAddr a => decide (a.toNat < cfg.n)
  | .init | .start | .stop | .writebyte _ | .datacmd | .addrdata _ _ | .dispctrl | .dat _ _ | .enc _
  | .intensity _ | .showdigit _ _ | .showdigitarray _ _ | .showsegment _ _ | .showhex _ | .toggledp _ _
  | .clear | .on | .off | .wireData | .wireCtrl _ _ => true

end Sys2Proof
end

