-- ==== Sys2Proof/Decode.lean ====
section
/-! DEFINITION. Decoding a request to an operation, and the encoder back. The selector codes are R63, the reserved ones
R64, the wire-byte patterns R52 to R55. Operands are typed values presented beside the selector, so nothing is unpacked
(R62, log 1). -/

namespace Sys2Proof

/-- Why a request is no operation. -/
inductive DecodeError where
  /-- A selector code `0x13` to `0x1F` (R64). Raised by `decode`; safe, the spec refuses it. -/
  | reservedSelector (opsel : BitVec 5)
  /-- Operands other than those the selected operation names. R125 says that an operand outside its type cannot be presented
  and is no refusal; `Request` can hold such a list, and refusing it is the model's choice (log 21). Raised by `decode`;
  safe. -/
  | operandTypes (opsel : BitVec 5)
  /-- A `wire8` byte that is none of the block's command bytes (R64); the form and its refusal are the model's choice (log 2).
  Raised by `decode`; safe. -/
  | noCommandByte (b : Byte)
deriving DecidableEq, Repr

/-- The operation a selector code and its operands stand for (R63). A list of operands that does not match the operation is
refused, the model's choice (log 21). -/
def decodeSelector (opsel : BitVec 5) (operands : List Operand) : Except DecodeError Instr :=
  match opsel.toNat with
  | 0x00 => match operands with | [] => .ok .init | _ => .error (.operandTypes opsel)
  | 0x01 => match operands with | [] => .ok .start | _ => .error (.operandTypes opsel)
  | 0x02 => match operands with | [] => .ok .stop | _ => .error (.operandTypes opsel)
  | 0x03 => match operands with | [.byte b] => .ok (.writebyte b) | _ => .error (.operandTypes opsel)
  | 0x04 => match operands with | [] => .ok .datacmd | _ => .error (.operandTypes opsel)
  | 0x05 =>
    match operands with | [.nat pos, .byte data] => .ok (.addrdata pos data) | _ => .error (.operandTypes opsel)
  | 0x06 => match operands with | [] => .ok .dispctrl | _ => .error (.operandTypes opsel)
  | 0x07 => match operands with | [.nat pos, .byte data] => .ok (.dat pos data) | _ => .error (.operandTypes opsel)
  | 0x08 => match operands with | [.nat value] => .ok (.enc value) | _ => .error (.operandTypes opsel)
  | 0x09 => match operands with | [.int level] => .ok (.intensity level) | _ => .error (.operandTypes opsel)
  | 0x0A =>
    match operands with | [.nat value, .nat pos] => .ok (.showdigit value pos) | _ => .error (.operandTypes opsel)
  | 0x0B =>
    match operands with
    | [.nats values, .nat blankPos] => .ok (.showdigitarray values blankPos)
    | _ => .error (.operandTypes opsel)
  | 0x0C =>
    match operands with
    | [.nat pos, .byte rawByte] => .ok (.showsegment pos rawByte)
    | _ => .error (.operandTypes opsel)
  | 0x0D =>
    match operands with | [.bytes bytes] => .ok (.showsegmentarray bytes) | _ => .error (.operandTypes opsel)
  | 0x0E => match operands with | [.hex value] => .ok (.showhex value) | _ => .error (.operandTypes opsel)
  | 0x0F =>
    match operands with | [.nat pos, .flag shown] => .ok (.toggledp pos shown) | _ => .error (.operandTypes opsel)
  | 0x10 => match operands with | [] => .ok .clear | _ => .error (.operandTypes opsel)
  | 0x11 => match operands with | [] => .ok .on | _ => .error (.operandTypes opsel)
  | 0x12 => match operands with | [] => .ok .off | _ => .error (.operandTypes opsel)
  | _ => .error (.reservedSelector opsel)

/-- The command byte a wire pattern is: bits 7:6 tell the three kinds apart (R52), the data command is `0x40` alone (R53),
the address is below `N` (R42, R54), the control byte has bits 6..4 clear (R55). -/
def decodeWire (cfg : Params) (b : Byte) : Except DecodeError Instr :=
  if b = 0x40#8 then .ok .wireData
  else if b.extractLsb' 6 2 = 3#2 ∧ (b.extractLsb' 0 6).toNat < cfg.n then .ok (.wireAddr (b.extractLsb' 0 6))
  else if b.extractLsb' 4 4 = 8#4 then .ok (.wireCtrl (b.getLsbD 3) (b.extractLsb' 0 3))
  else .error (.noCommandByte b)

/-- Decoding a request of a block with parameters `cfg`: total, rejecting by name. -/
def decode (cfg : Params) : Request → Except DecodeError Instr
  | .opsel5 opsel operands => decodeSelector opsel operands
  | .wire8 b => decodeWire cfg b

/-- The request that selects an operation: the codes of R63, the byte layouts of R53, R54 and R55. -/
def encode : Instr → Request
  | .init => .opsel5 0x00#5 []
  | .start => .opsel5 0x01#5 []
  | .stop => .opsel5 0x02#5 []
  | .writebyte b => .opsel5 0x03#5 [.byte b]
  | .datacmd => .opsel5 0x04#5 []
  | .addrdata pos data => .opsel5 0x05#5 [.nat pos, .byte data]
  | .dispctrl => .opsel5 0x06#5 []
  | .dat pos data => .opsel5 0x07#5 [.nat pos, .byte data]
  | .enc value => .opsel5 0x08#5 [.nat value]
  | .intensity level => .opsel5 0x09#5 [.int level]
  | .showdigit value pos => .opsel5 0x0A#5 [.nat value, .nat pos]
  | .showdigitarray values blankPos => .opsel5 0x0B#5 [.nats values, .nat blankPos]
  | .showsegment pos rawByte => .opsel5 0x0C#5 [.nat pos, .byte rawByte]
  | .showsegmentarray bytes => .opsel5 0x0D#5 [.bytes bytes]
  | .showhex value => .opsel5 0x0E#5 [.hex value]
  | .toggledp pos shown => .opsel5 0x0F#5 [.nat pos, .flag shown]
  | .clear => .opsel5 0x10#5 []
  | .on => .opsel5 0x11#5 []
  | .off => .opsel5 0x12#5 []
  | .wireData => .wire8 0x40#8
  | .wireAddr a => .wire8 (3#2 ++ a)
  | .wireCtrl p b => .wire8 (8#4 ++ BitVec.ofBool p ++ b)

/-- The operands a selector names (R62), each at a zero value: 0, the empty list, false. Reserved selectors get none. The spec
gives a bare word no operands; these are the model's choice (log 20). -/
def zeroOperands (code : Nat) : List Operand :=
  match code with
  | 0x03 => [.byte 0x00#8]
  | 0x05 => [.nat 0, .byte 0x00#8]
  | 0x07 => [.nat 0, .byte 0x00#8]
  | 0x08 => [.nat 0]
  | 0x09 => [.int 0]
  | 0x0A => [.nat 0, .nat 0]
  | 0x0B => [.nats [], .nat 0]
  | 0x0C => [.nat 0, .byte 0x00#8]
  | 0x0D => [.bytes []]
  | 0x0E => [.hex 0#16]
  | 0x0F => [.nat 0, .flag false]
  | _ => []

/-- The request whose opcode-table word is `w`: below 32 a selector with zero operands, otherwise a wire byte. The spec defines
no word form of a request (`REQ_PACKING` is OPEN, R4, R62); this reading is the model's choice (log 20). The two formats'
words are disjoint, since every command byte has bit 7 or bit 6 set (R52). -/
def requestOfWord (w : Nat) : Request :=
  if w < 32 then .opsel5 (BitVec.ofNat 5 w) (zeroOperands w) else .wire8 (BitVec.ofNat 8 w)

/-- The instruction the decoder of this hardware reads from an opcode-table word of `nbits` bits, all operands zero; none where
the word does not fit in `nbits` or in eight bits (the model's choice, log 20). -/
def decodeTableWord (nbits w : Nat) : Option Instr :=
  if w < 2 ^ nbits ∧ w < 256 then (decode Config.hardware (requestOfWord w)).toOption else none

end Sys2Proof
end

