-- ==== Sys2Proof/Machine/Flags.lean ====
section
/-! DEFINITION. The two control registers as they go on the wire: the display-control byte and the brightness a level
stands for (R13, R14, R55, R58, R59). The block has no condition codes. -/

namespace Sys2Proof.Machine

/-- `0x80 | PWR | BRIGHT` (R55, R58). -/
def controlByte (pwr : Power) (bright : BitVec 3) : Byte :=
  0x80#8 ||| pwr.number ||| bright.zeroExtend 8

/-- `min(level, 8) - 1` for a level of 1 or more (R59, R102, R115). -/
def brightnessOf (level : Int) : BitVec 3 :=
  BitVec.ofNat 3 ((min level 8 - 1).toNat)

/-- The brightness at construction, `INIT_LEVEL - 1` (R23, R101). -/
def initBrightness (p : Params) : BitVec 3 :=
  BitVec.ofNat 3 (p.initLevel - 1)

end Sys2Proof.Machine
end

