-- ==== Sys2Proof/Machine/Wire.lean ====
section
/-! DEFINITION. What goes on the two wires, as lists of pin writes: the framing elements (R51), the byte serialiser (R73),
the frames (R50) and the command bytes (R53, R54). Nothing here reads or writes state. -/

namespace Sys2Proof.Machine.Wire

/-- The start condition `D0 C0` (R51, R71). -/
def start : List Event :=
  [.d false, .c false]

/-- The stop condition `D0 C1 D1` (R51, R72). -/
def stop : List Event :=
  [.d false, .c true, .d true]

/-- The cell of a bit `x`: `Dx C1 C0` (R51). -/
def bitCell (x : Bool) : List Event :=
  [.d x, .c true, .c false]

/-- The ACK slot `C1 C0`: a clock pulse alone, no data write (R51, R74, D7). -/
def ackSlot : List Event :=
  [.c true, .c false]

/-- The bits of a byte in the order they are sent, least significant first (R35). -/
def bitsOf (b : Byte) : List Bool :=
  (List.range 8).map b.getLsbD

/-- A byte on the wire: eight bit cells, bit 0 first, then the ACK slot (R51, R73). -/
def byte (b : Byte) : List Event :=
  (bitsOf b).flatMap bitCell ++ ackSlot

/-- A frame: start condition, bytes, stop condition (R50). -/
def frame (bytes : List Byte) : List Event :=
  start ++ bytes.flatMap byte ++ stop

/-- Several frames one after another (R43). -/
def frames (fs : List (List Byte)) : List Event :=
  fs.flatMap frame

/-- The data command byte (R53). -/
def dataCommand : Byte :=
  0x40#8

/-- The address command byte `0xC0 | p` (R54). -/
def addressByte (p : Nat) : Byte :=
  0xC0#8 ||| BitVec.ofNat 8 p

/-- The frames of a `DAT` at position `p`, the control byte being `ctrl` (R83). -/
def datFrames (p : Nat) (data ctrl : Byte) : List (List Byte) :=
  [[dataCommand], [addressByte p, data], [ctrl]]

/-- The frames of one `DAT` per position, 0 first (R84, R100). -/
def datGroups (n : Nat) (data : Nat → Byte) (ctrl : Byte) : List (List Byte) :=
  (List.range n).flatMap fun i => datFrames i (data i) ctrl

/-- The two events that drive both lines low at construction, the clock first (R101, D9). -/
def driveLow : List Event :=
  [.c false, .d false]

/-- The whole trace of `INIT` for `n` positions and control byte `ctrl` (R101, R141). -/
def initTrace (n : Nat) (ctrl : Byte) : List Event :=
  driveLow ++ frames (datGroups n (fun _ => 0x00#8) ctrl)

end Sys2Proof.Machine.Wire
end

