-- ==== Sys2Proof/Machine/State.lean ====
section
/-! DEFINITION. The state of one instance of the block (R10), the reasons a step can stop, and the state at reset release
(R23). Constants (`LUT`, R18) are not state; what R21 lists is in no field. -/

namespace Sys2Proof.Machine

/-- The `SEG` space, a dense list of one byte per position (R11, R32): index `i` is address `i`, so equal contents are
equal lists (log 11). The block has no other memory it can read (R30). -/
abbrev Memory := List Byte

/-- The one form of `SEG`: exactly one cell for each of the `n` addresses the space has (R11, R30). -/
def Memory.wf (n : Nat) (m : Memory) : Bool :=
  decide (m.length = n)

/-- The faults of the block. There are none: no operation raises anything (R120) and no behaviour of the block is treated
as a fault (93_implementation_defined.md). -/
inductive Fault where
deriving DecidableEq, Repr

/-- The refusals, those of R125 and the host-port ones. A refusal ends the run (R155, log 6); each is safe. -/
inductive Refusal where
  /-- An instruction without a meaning yet; raised by a refused arm of `exec`. Safe. No arm raises it. -/
  | notModelled (mnemonic : String)
  /-- A request while `BUSY = 1`; raised by every meaning (R125 item 2, R149). Safe. -/
  | busy
  /-- `SHOWSEGMENTARRAY` with more than `N` bytes; raised by its meaning (R106, R125 item 3). Safe. -/
  | overlongList
  /-- A parameter outside its domain; raised by every meaning and every step (R4, R125 item 4). Safe. -/
  | badConfiguration
  /-- A request that is no operation: a reserved selector (R64, R125 item 1), or, by the model's choice, operands that cannot
  be presented for it (log 21) or a `wire8` byte that is no command byte (log 2); raised by the request port. Safe. -/
  | badRequest (e : DecodeError)
deriving DecidableEq, Repr

/-- The complete state of one instance of the block (R10), with the model's own input and output lists. -/
structure State where
  /-- The parameters the block was built with; written by nothing (R4, log 3). -/
  params : Params
  /-- `SEG[0..N-1]` (R11). -/
  seg : Memory
  /-- `PWR` (R13). -/
  pwr : Power
  /-- `BRIGHT` (R14). -/
  bright : BitVec 3
  /-- The latch `CLK`; `none` is *no value* (R16, R23). -/
  clk : Option Level
  /-- The latch `DIO`; `none` is *no value* (R16, R23). -/
  dio : Option Level
  /-- `Q`, the pending pin writes, next one first (R20). -/
  q : List Event
  /-- The trace since reset, oldest first; read by no rule (R17). -/
  trace : List Event
  /-- The bytes `ENC` has returned to the host, oldest first; the model's own, read by no rule (R91, log 5). -/
  returned : List Byte
  /-- The host's requests not yet issued, next one first; the model's own (R155, log 7). -/
  requests : List Request
deriving DecidableEq, Repr

/-- `BUSY`: the queue is not empty (R20). -/
def State.busy (s : State) : Bool :=
  !s.q.isEmpty

/-- The block with parameters `p` at reset release: `INIT` accepted, none of its events emitted (R23, R140, C9). -/
def State.resetWith (p : Params) : State :=
  { params := p
    seg := List.replicate p.n 0x00#8
    pwr := .on
    bright := initBrightness p
    clk := none
    dio := none
    q := Wire.initTrace p.n (controlByte .on (initBrightness p))
    trace := []
    returned := []
    requests := [] }

/-- This hardware at reset release (R4, R23). -/
def State.reset : State :=
  State.resetWith Config.hardware

end Sys2Proof.Machine
end

