-- ==== Sys2Proof/Machine/Ops.lean ====
section
/-! DEFINITION. The named operations over the state: pin writes, register reads and writes, the acceptance of an operation
and the delivery of its pending events (R7, R16, R20). The block takes no exception and returns from none (R120, R126), so
the only way not to complete is the refusal of a request (R125), decided in `accept`. -/

namespace Sys2Proof.Machine

/-- Pin writes of an operation being performed: they join the queue in the order written (R7, R20, R43). -/
def State.emit (s : State) (es : List Event) : State :=
  { s with q := s.q ++ es }

/-- `SEG[i]` (R7, R11). Every rule reads below `N`, where the file has an entry. -/
def State.segAt (s : State) (i : Nat) : Byte :=
  s.seg.getD i 0x00#8

/-- `SEG[i] <- b` (R7, R11). -/
def State.writeSeg (s : State) (i : Nat) (b : Byte) : State :=
  { s with seg := s.seg.set i b }

/-- `PWR <- v` (R7, R13). -/
def State.setPower (s : State) (v : Power) : State :=
  { s with pwr := v }

/-- `BRIGHT <- v` (R7, R14). -/
def State.setBright (s : State) (v : BitVec 3) : State :=
  { s with bright := v }

/-- A segment buffer of `N` zero bytes: "allocate the segment buffer", "clears the segment buffer" (R23, R101). -/
def State.allocateSeg (s : State) : State :=
  { s with seg := List.replicate s.params.n 0x00#8 }

/-- A byte returned to the host (R91, log 5). -/
def State.returnByte (s : State) (b : Byte) : State :=
  { s with returned := s.returned ++ [b] }

/-- The display-control byte the registers stand for now (R58, D20). -/
def State.control (s : State) : Byte :=
  controlByte s.pwr s.bright

/-- `f` at positions 0, 1, ..., `n - 1`, one after another (R100 item 4, D15). -/
def forPositions : Nat → (Nat → State → State) → State → State
  | 0, _, s => s
  | n + 1, f, s => f n (forPositions n f s)

/-- `f` at each position of a list, one after another, the head first (R108). -/
def forOrder : List Nat → (Nat → State → State) → State → State
  | [], _, s => s
  | k :: ks, f, s => forOrder ks f (f k s)

/-- Acceptance of an operation (R20): in a block with parameters in their domains and `BUSY = 0`, its register writes
happen at once and its events become `Q`; otherwise the request is refused (R125 items 2 and 4), the configuration named
before `BUSY` (the model's choice, log 6). -/
def accept (s : State) (body : State → State) : Host.Outcome State Fault Refusal :=
  if s.params.valid then
    if s.busy then .refused .busy else .next (body s)
  else .refused .badConfiguration

/-- The pin write `emit(L, v)` reaching its latch and the trace; the other latch is unchanged (R7, R16, R17). -/
def State.pinWrite (s : State) (e : Event) : State :=
  match e.line with
  | .clk => { s with clk := some e.level, trace := s.trace ++ [e] }
  | .dio => { s with dio := some e.level, trace := s.trace ++ [e] }

/-- The level a latch holds after a list of events (R16). -/
def latchAfter (l : Line) (es : List Event) (before : Option Level) : Option Level :=
  es.foldl (fun v e => if e.line = l then some e.level else v) before

/-- The state once every pending event has been emitted, in closed form (R20): the latches hold the last levels written,
the trace has grown by `Q`, and `BUSY = 0`. -/
def State.drain (s : State) : State :=
  { s with
    clk := latchAfter .clk s.q s.clk
    dio := latchAfter .dio s.q s.dio
    q := []
    trace := s.trace ++ s.q }

end Sys2Proof.Machine
end

