-- ==== Sys2Proof/Machine/Transport.lean ====
section
/-! DEFINITION. The frame transport family: START, STOP, WRITEBYTE (R70 to R75). -/

namespace Sys2Proof.Machine

/-- The pseudocode of `START` (R71). -/
def opStart (s : State) : State :=
  s.emit Wire.start

/-- The pseudocode of `STOP` (R72). -/
def opStop (s : State) : State :=
  s.emit Wire.stop

/-- The pseudocode of `WRITEBYTE b` (R73). -/
def opWritebyte (b : Byte) (s : State) : State :=
  s.emit (Wire.byte b)

/-- `START` (R71). -/
def execStart (s : State) : Host.Outcome State Fault Refusal :=
  accept s opStart

/-- `STOP` (R72). -/
def execStop (s : State) : Host.Outcome State Fault Refusal :=
  accept s opStop

/-- `WRITEBYTE b` (R73). -/
def execWritebyte (b : Byte) (s : State) : Host.Outcome State Fault Refusal :=
  accept s (opWritebyte b)

end Sys2Proof.Machine
end

