-- ==== Sys2Proof/Machine/WireBytes.lean ====
section
/-! DEFINITION. The three command bytes of the opcode table's WIRE8 rows (R52 to R55), as the steps the command layer takes
to put them on the wire. That a request can ask for one alone is the model's choice (log 2): the rows are "not
operations", and what one of them does on the wire is what `WRITEBYTE` of that byte does (R64, R73). -/

namespace Sys2Proof.Machine

/-- The data command byte `0x40` through the serialiser (R53). -/
def opDataByte (s : State) : State :=
  opWritebyte Wire.dataCommand s

/-- The address command byte `0xC0 | (pos mod N)` through the serialiser (R54, R57). -/
def opAddressByte (pos : Nat) (s : State) : State :=
  opWritebyte (Wire.addressByte (position s.params pos)) s

/-- A display-control byte through the serialiser (R55). -/
def opControlByte (pwr : Power) (bright : BitVec 3) (s : State) : State :=
  opWritebyte (controlByte pwr bright) s

/-- `WIRE.DATA` (R53, log 2). -/
def execWireData (s : State) : Host.Outcome State Fault Refusal :=
  accept s opDataByte

/-- `WIRE.ADDR a` (R54, log 2). -/
def execWireAddr (a : BitVec 6) (s : State) : Host.Outcome State Fault Refusal :=
  accept s (opAddressByte a.toNat)

/-- `WIRE.CTRL p b` (R55, log 2). -/
def execWireCtrl (p : Bool) (b : BitVec 3) (s : State) : Host.Outcome State Fault Refusal :=
  accept s (opControlByte (if p then .on else .off) b)

end Sys2Proof.Machine
end

