-- ==== Sys2Proof/Machine/Command.lean ====
section
/-! DEFINITION. The command layer family: DATACMD, ADDRDATA, DISPCTRL, DAT (R80 to R85). None writes a register (R85). -/

namespace Sys2Proof.Machine

/-- The pseudocode of `DATACMD` (R80). -/
def opDatacmd (s : State) : State :=
  opStop (opDataByte (opStart s))

/-- The pseudocode of `ADDRDATA pos, data` (R81). -/
def opAddrdata (pos : Nat) (data : Byte) (s : State) : State :=
  opStop (opWritebyte data (opAddressByte pos (opStart s)))

/-- The pseudocode of `DISPCTRL`; the registers are read as they stand when it is performed (R58, R82). -/
def opDispctrl (s : State) : State :=
  opStop (opControlByte s.pwr s.bright (opStart s))

/-- The pseudocode of `DAT pos, data`, the wrapped single-digit write (R83, R84). -/
def opDat (pos : Nat) (data : Byte) (s : State) : State :=
  opDispctrl (opAddrdata pos data (opDatacmd s))

/-- `DATACMD` (R80). -/
def execDatacmd (s : State) : Host.Outcome State Fault Refusal :=
  accept s opDatacmd

/-- `ADDRDATA pos, data` (R81). -/
def execAddrdata (pos : Nat) (data : Byte) (s : State) : Host.Outcome State Fault Refusal :=
  accept s (opAddrdata pos data)

/-- `DISPCTRL` (R82). -/
def execDispctrl (s : State) : Host.Outcome State Fault Refusal :=
  accept s opDispctrl

/-- `DAT pos, data` (R83). -/
def execDat (pos : Nat) (data : Byte) (s : State) : Host.Outcome State Fault Refusal :=
  accept s (opDat pos data)

end Sys2Proof.Machine
end

