-- ==== Sys2Proof/Machine/Display.lean ====
section
/-! DEFINITION. The display operations that act on one position or none: INIT, INTENSITY, SHOWDIGIT, SHOWSEGMENT, TOGGLEDP,
CLEAR, ON, OFF (R100 to R103, R105, R110 to R113). -/

namespace Sys2Proof.Machine

/-- The pseudocode of `SHOWSEGMENT pos, rawByte`: the register first, then the `DAT` (R100 item 2, R105). -/
def opShowsegment (pos : Nat) (rawByte : Byte) (s : State) : State :=
  opDat (position s.params pos) rawByte (s.writeSeg (position s.params pos) rawByte)

/-- The pseudocode of `SHOWDIGIT value, pos` (R103). -/
def opShowdigit (value pos : Nat) (s : State) : State :=
  opDat (position s.params pos) (segmentPattern value)
    (s.writeSeg (position s.params pos) (segmentPattern value))

/-- The pseudocode of `CLEAR` (R111). -/
def opClear (s : State) : State :=
  forPositions s.params.n (fun i t => opDat i 0x00#8 (t.writeSeg i 0x00#8)) s

/-- The pseudocode of `ON` (R112). -/
def opOn (s : State) : State :=
  opDispctrl (opDatacmd (s.setPower .on))

/-- The pseudocode of `OFF` (R113). -/
def opOff (s : State) : State :=
  opDispctrl (opDatacmd (s.setPower .off))

/-- The data command `INTENSITY` sends first, if the parameter says so (R102, D12). -/
def opIntensityData (s : State) : State :=
  if s.params.intensityDataCmd then opDatacmd s else s

/-- The pseudocode of `INTENSITY level` (R59, R102). -/
def opIntensity (level : Int) (s : State) : State :=
  if level < 1 then opOff s
  else opDispctrl (opIntensityData ((s.setPower .on).setBright (brightnessOf level)))

/-- The write-back of `TOGGLEDP`, if the parameter says so (R110, D14). -/
def opPointWriteback (p : Nat) (b : Byte) (s : State) : State :=
  if s.params.dpWriteback then s.writeSeg p b else s

/-- The pseudocode of `TOGGLEDP pos, show` (R45, R110). -/
def opToggledp (pos : Nat) (shown : Bool) (s : State) : State :=
  let p := position s.params pos
  let b := withPoint shown (s.segAt p)
  opDat p b (opPointWriteback p b s)

/-- The pseudocode of `INIT` (R101). -/
def opInit (s : State) : State :=
  opClear
    (State.allocateSeg (State.emit ((s.setPower .on).setBright (initBrightness s.params)) Wire.driveLow))

/-- `INIT` (R101, D24). -/
def execInit (s : State) : Host.Outcome State Fault Refusal :=
  accept s opInit

/-- `INTENSITY level` (R102). -/
def execIntensity (level : Int) (s : State) : Host.Outcome State Fault Refusal :=
  accept s (opIntensity level)

/-- `SHOWDIGIT value, pos` (R103). -/
def execShowdigit (value pos : Nat) (s : State) : Host.Outcome State Fault Refusal :=
  accept s (opShowdigit value pos)

/-- `SHOWSEGMENT pos, rawByte` (R105). -/
def execShowsegment (pos : Nat) (rawByte : Byte) (s : State) : Host.Outcome State Fault Refusal :=
  accept s (opShowsegment pos rawByte)

/-- `TOGGLEDP pos, show` (R110). -/
def execToggledp (pos : Nat) (shown : Bool) (s : State) : Host.Outcome State Fault Refusal :=
  accept s (opToggledp pos shown)

/-- `CLEAR` (R111). -/
def execClear (s : State) : Host.Outcome State Fault Refusal :=
  accept s opClear

/-- `ON` (R112). -/
def execOn (s : State) : Host.Outcome State Fault Refusal :=
  accept s opOn

/-- `OFF` (R113). -/
def execOff (s : State) : Host.Outcome State Fault Refusal :=
  accept s opOff

end Sys2Proof.Machine
end

