-- ==== Sys2Proof/Machine/DisplayArray.lean ====
section
/-! DEFINITION. The display operations that take several positions from an operand: SHOWDIGITARRAY, SHOWSEGMENTARRAY,
SHOWHEX (R104, R106, R107, R108). -/

namespace Sys2Proof.Machine

/-- One position of `SHOWDIGITARRAY`: the digit if the entry is one, else the blank glyph, stored and sent (R104, D17). -/
def opArrayDigit (values : List Nat) (i : Nat) (s : State) : State :=
  match arrayDigit values i with
  | some v => opShowdigit v i s
  | none => opShowsegment i 0x00#8 s

/-- The pseudocode of `SHOWDIGITARRAY values, blankPos`; `blankPos` has no effect (R104, R107). -/
def opShowdigitarray (values : List Nat) (_blankPos : Nat) (s : State) : State :=
  forPositions s.params.n (opArrayDigit values) s

/-- The loop of `SHOWSEGMENTARRAY bytes` (R106). -/
def opShowsegmentarray (bytes : List Byte) (s : State) : State :=
  forPositions s.params.n (fun i => opShowsegment i (arrayByte bytes i)) s

/-- The pseudocode of `SHOWHEX value`: four digits in `HEX_ORDER` (R108). -/
def opShowhex (value : BitVec 16) (s : State) : State :=
  forOrder s.params.hexOrder (fun k => opShowdigit (nibble value k) k) s

/-- `SHOWDIGITARRAY values, blankPos` (R104). -/
def execShowdigitarray (values : List Nat) (blankPos : Nat) (s : State) : Host.Outcome State Fault Refusal :=
  accept s (opShowdigitarray values blankPos)

/-- `SHOWSEGMENTARRAY bytes`: a list longer than `N` is refused (R61, R106, R125 item 3, D16), before any other
reason to refuse is looked at (the model's choice, log 6). -/
def execShowsegmentarray (bytes : List Byte) (s : State) : Host.Outcome State Fault Refusal :=
  if s.params.n < bytes.length then .refused .overlongList else accept s (opShowsegmentarray bytes)

/-- `SHOWHEX value` (R108). -/
def execShowhex (value : BitVec 16) (s : State) : Host.Outcome State Fault Refusal :=
  accept s (opShowhex value)

end Sys2Proof.Machine
end

