-- ==== Sys2Proof/Machine/Encoding.lean ====
section
/-! DEFINITION. The digit table's one operation, ENC (R91). No wire activity, no register written; the byte goes to the
host (log 5). -/

namespace Sys2Proof.Machine

/-- The pseudocode of `ENC value` (R91). -/
def opEnc (value : Nat) (s : State) : State :=
  s.returnByte (segmentPattern value)

/-- `ENC value` (R91). -/
def execEnc (value : Nat) (s : State) : Host.Outcome State Fault Refusal :=
  accept s (opEnc value)

end Sys2Proof.Machine
end

