-- ==== Sys2Proof/Machine/Dispatch.lean ====
section
/-! DEFINITION. What the block does with each operation: one arm per constructor of Instr, each one call of its meaning. -/

namespace Sys2Proof.Machine

def exec (i : Instr) (s : State) : Host.Outcome State Fault Refusal :=
  match i with
  -- construction (R101)
  | .init => Sys2Proof.Machine.execInit s
  -- frame transport (R71 to R73)
  | .start => Sys2Proof.Machine.execStart s
  | .stop => Sys2Proof.Machine.execStop s
  | .writebyte b => Sys2Proof.Machine.execWritebyte b s
  -- command layer (R80 to R83)
  | .datacmd => Sys2Proof.Machine.execDatacmd s
  | .addrdata pos data => Sys2Proof.Machine.execAddrdata pos data s
  | .dispctrl => Sys2Proof.Machine.execDispctrl s
  | .dat pos data => Sys2Proof.Machine.execDat pos data s
  -- digit table (R91)
  | .enc value => Sys2Proof.Machine.execEnc value s
  -- display operations (R102 to R113)
  | .intensity level => Sys2Proof.Machine.execIntensity level s
  | .showdigit value pos => Sys2Proof.Machine.execShowdigit value pos s
  | .showdigitarray values blankPos => Sys2Proof.Machine.execShowdigitarray values blankPos s
  | .showsegment pos rawByte => Sys2Proof.Machine.execShowsegment pos rawByte s
  | .showsegmentarray bytes => Sys2Proof.Machine.execShowsegmentarray bytes s
  | .showhex value => Sys2Proof.Machine.execShowhex value s
  | .toggledp pos shown => Sys2Proof.Machine.execToggledp pos shown s
  | .clear => Sys2Proof.Machine.execClear s
  | .on => Sys2Proof.Machine.execOn s
  | .off => Sys2Proof.Machine.execOff s
  -- wire bytes (R53 to R55)
  | .wireData => Sys2Proof.Machine.execWireData s
  | .wireAddr a => Sys2Proof.Machine.execWireAddr a s
  | .wireCtrl p b => Sys2Proof.Machine.execWireCtrl p b s

end Sys2Proof.Machine
end

