-- ==== Sys2Proof/Machine/HostPort.lean ====
section
/-! DEFINITION. What the host can do to the block (R155): present a request while idle, read the ports while idle (R22),
assert reset. And the sequencer's step over them (R20). -/

namespace Sys2Proof.Machine

/-- A request at the port: decoded and performed, or refused by name (R62, R125). Where a request that is no operation meets
a busy or misconfigured block, R125 orders no reasons; naming `badRequest` here is the model's choice (log 6). -/
def present (r : Request) (s : State) : Host.Outcome State Fault Refusal :=
  match decode s.params r with
  | .ok i => exec i s
  | .error e => .refused (.badRequest e)

/-- One step of the sequencer (R20, R154). Busy: the head of `Q` reaches its line. Idle: the host's next request is taken
(R149, R155). Idle with nothing requested: the block stays as it is, since it has no way to end a run (R155, log 7). A configuration
outside its domain is named before any fault of the request (the model's choice, log 6). -/
def sequencerStep (s : State) : Host.Outcome State Fault Refusal :=
  if s.params.valid then
    match s.q with
    | e :: rest => .next (State.pinWrite { s with q := rest } e)
    | [] =>
      match s.requests with
      | r :: rs => present r { s with requests := rs }
      | [] => .next s
  else .refused .badConfiguration

/-- A request put before all others, with every pending event emitted first, so that it is the next thing the sequencer
takes (log 8). -/
def placeRequest (s : State) (r : Request) : State :=
  { s.drain with requests := r :: s.requests }

/-- Read-back of `SEG[i]`, made only when `BUSY = 0` and for `i` below `N` (R22, D22). -/
def readSeg (s : State) (i : Nat) : Option Byte :=
  if s.busy then none else if i < s.params.n then s.seg[i]? else none

/-- Read-back of `PWR`, the number 0 or 8, made only when `BUSY = 0` (R13, R22). -/
def readPower (s : State) : Option Byte :=
  if s.busy then none else some s.pwr.number

/-- Read-back of `BRIGHT`, made only when `BUSY = 0` (R22). -/
def readBright (s : State) : Option (BitVec 3) :=
  if s.busy then none else some s.bright

/-- Read-back of `BUSY` (R22). R22 and D22 have every read made only when `BUSY = 0`; that this port, unlike the other three,
also answers, with 1, while `BUSY = 1` is the model's choice (log 19). -/
def readBusy (s : State) : Bool :=
  s.busy

/-- Reset asserted by the host, at any time: construction once more. What an operation had left to emit is dropped and the
trace restarts with `INIT` (R127, R140, R155). What the host has yet to ask stays asked (log 15). -/
def hostReset (s : State) : Host.Outcome State Fault Refusal :=
  if s.params.valid then .next { State.resetWith s.params with requests := s.requests }
  else .refused .badConfiguration

end Sys2Proof.Machine
end

