-- ==== Sys2Proof/Machine/Step.lean ====
section
/-! DEFINITION. The step of the machine and the placing of one instruction where the step takes its next one from. -/

namespace Sys2Proof.Machine

/-- One step: one pin write, or the acceptance of one request, or nothing (R20). -/
def step : State → Host.Outcome State Fault Refusal :=
  sequencerStep

/-- `s` with the request of opcode-table word `w` as the very next one, the block idle (log 8, log 20). -/
def State.withFetchWord (s : State) (_nbits w : Nat) : State :=
  placeRequest s (requestOfWord w)

end Sys2Proof.Machine
end

