-- ==== Sys2Proof/Machine/Receiver.lean ====
section
/-! DEFINITION. The reader of a trace that R47 describes: the far end of the wires, not a behaviour of the block and not
state of it. It turns a trace into the frames a receiver sees (log 18). -/

namespace Sys2Proof.Machine

/-- What the reader keeps while it walks a trace (R47). -/
structure Receiver where
  /-- The current level of the clock line. -/
  clk : Option Level
  /-- The current level of the data line. -/
  dio : Option Level
  /-- A frame is open. -/
  inFrame : Bool
  /-- The bits of the current group, first sampled first; eight or fewer. -/
  bits : List Bool
  /-- The whole bytes of the open frame. -/
  bytes : List Byte
  /-- The frames closed so far, oldest first. -/
  frames : List (List Byte)
deriving DecidableEq, Repr

/-- The byte whose bits, least significant first, are `bits` (R35). -/
def byteOfBits (bits : List Bool) : Byte :=
  BitVec.ofNat 8 (bits.foldr (fun x n => x.toNat + 2 * n) 0)

/-- A start edge: a frame opens, the bit counter is clear (R47). -/
def Receiver.startEdge (r : Receiver) : Receiver :=
  { r with inFrame := true, bits := [], bytes := [] }

/-- A stop edge: the open frame closes, an incomplete bit group is discarded (R47). -/
def Receiver.stopEdge (r : Receiver) : Receiver :=
  if r.inFrame then { r with inFrame := false, bits := [], bytes := [], frames := r.frames ++ [r.bytes] } else r

/-- A rising clock edge samples the data line: bits 1 to 8 of a group are a byte, the ninth is the ACK slot and ends the
group (R47). -/
def Receiver.sample (r : Receiver) : Receiver :=
  if r.inFrame then
    if r.bits.length < 7 then { r with bits := r.bits ++ [r.dio.getD false] }
    else if r.bits.length = 7 then
      { r with
        bits := r.bits ++ [r.dio.getD false]
        bytes := r.bytes ++ [byteOfBits (r.bits ++ [r.dio.getD false])] }
    else { r with bits := [] }
  else r

/-- One event read (R47): the edge it makes, if any, then the line's new level. -/
def Receiver.onEvent (r : Receiver) (e : Event) : Receiver :=
  match e.line, e.level with
  | .dio, false =>
    let r' := if r.clk = some true ∧ r.dio = some true then r.startEdge else r
    { r' with dio := some false }
  | .dio, true =>
    let r' := if r.clk = some true ∧ r.dio = some false then r.stopEdge else r
    { r' with dio := some true }
  | .clk, true =>
    let r' := if r.clk = some false then r.sample else r
    { r' with clk := some true }
  | .clk, false => { r with clk := some false }

/-- A whole trace read. -/
def Receiver.read (r : Receiver) (es : List Event) : Receiver :=
  es.foldl Receiver.onEvent r

/-- A reader that has seen nothing of lines at the given levels. -/
def Receiver.fresh (clk dio : Option Level) : Receiver :=
  { clk := clk, dio := dio, inFrame := false, bits := [], bytes := [], frames := [] }

/-- The frames a reader sees in a trace that begins with the lines at the given levels (R47). -/
def framesRead (clk dio : Option Level) (es : List Event) : List (List Byte) :=
  ((Receiver.fresh clk dio).read es).frames

/-- The number of rising clock edges in a trace that begins with the clock at the given level (R75, R153). -/
def risingEdges : Option Level → List Event → Nat
  | _, [] => 0
  | c, e :: es =>
    match e.line with
    | .dio => risingEdges c es
    | .clk => (if e.level = true ∧ c = some false then 1 else 0) + risingEdges (some e.level) es

/-- The changes of the data line while the clock is high, each given as the new level, in a trace that begins with the
lines at the given levels: `false` is a start edge, `true` a stop edge (R47, R75). -/
def dataEdges : Option Level → Option Level → List Event → List Level
  | _, _, [] => []
  | c, d, e :: es =>
    match e.line with
    | .clk => dataEdges (some e.level) d es
    | .dio =>
      if c = some true ∧ d = some (!e.level) then e.level :: dataEdges c (some e.level) es
      else dataEdges c (some e.level) es

end Sys2Proof.Machine
end

