-- ==== Sys2Proof/Safety.lean ====
section
/-! DEFINITION. The terms claims are stated in: when the block takes a request, what a safe state is, the big-step meaning
of an operation and of a run (R8, R19, R155), and what a trace says was sent (R12, R152). -/

namespace Sys2Proof.Machine

/-- The block takes a request: parameters in their domains and `BUSY = 0` (R20, R125). -/
abbrev Accepting (s : State) : Prop :=
  s.params.valid = true ∧ s.q = []

/-- `SEG` is a file of `N` entries (R11). -/
abbrev SegSized (s : State) : Prop :=
  Memory.wf s.params.n s.seg = true

/-- The idle bus: both latches high (R72, glossary). -/
abbrev IdleBus (s : State) : Prop :=
  s.clk = some true ∧ s.dio = some true

/-- The safe states: parameters in their domains, the segment buffer of its one size (R4, R11). -/
abbrev Safe (s : State) : Prop :=
  s.params.valid = true ∧ SegSized s

/-- The end of a run: nothing left to ask and `BUSY = 0` (R155). -/
abbrev RunOver (s : State) : Prop :=
  s.requests = [] ∧ s.q = []

/-- The big-step meaning of an operation: accepted, and every event emitted before the next one is (R8, R19). -/
def perform (i : Instr) (s : State) : Host.Outcome State Fault Refusal :=
  match exec i s with
  | .next t => .next t.drain
  | .fault f => .fault f
  | .refused r => .refused r

/-- The big-step meaning of a list of requests, one after another (R19, R155). -/
def performAll : List Request → State → Host.Outcome State Fault Refusal
  | [], s => .next s
  | r :: rs, s =>
    match present r s with
    | .next t => performAll rs t.drain
    | .fault f => .fault f
    | .refused e => .refused e

/-- The block with parameters `p` at ready: `INIT` finished, nothing asked (R23, second column; R24). -/
def State.readyWith (p : Params) : State :=
  { State.resetWith p with
    clk := some true
    dio := some true
    q := []
    trace := Wire.initTrace p.n (controlByte .on (initBrightness p)) }

/-- The operations of tier B: the construction sequence and the display operations (R2, R100). -/
def tierB : Instr → Bool
  | .init | .intensity _ | .showdigit _ _ | .showdigitarray _ _ | .showsegment _ _ | .showsegmentarray _
  | .showhex _ | .toggledp _ _ | .clear | .on | .off => true
  | .start | .stop | .writebyte _ | .datacmd | .addrdata _ _ | .dispctrl | .dat _ _ | .enc _
  | .wireData | .wireAddr _ | .wireCtrl _ _ => false

/-- The operations of the command layer that emit whole frames (R80 to R83). -/
def commandLayer : Instr → Bool
  | .datacmd | .addrdata _ _ | .dispctrl | .dat _ _ => true
  | .init | .intensity _ | .showdigit _ _ | .showdigitarray _ _ | .showsegment _ _ | .showsegmentarray _
  | .showhex _ | .toggledp _ _ | .clear | .on | .off | .start | .stop | .writebyte _ | .enc _
  | .wireData | .wireAddr _ | .wireCtrl _ _ => false

/-- The number of pin writes of an operation (R153). -/
def eventCount (p : Params) : Instr → Nat
  | .start => 2
  | .stop => 3
  | .writebyte _ => 26
  | .datacmd => 31
  | .addrdata _ _ => 57
  | .dispctrl => 31
  | .dat _ _ => 119
  | .enc _ => 0
  | .init => 2 + 119 * p.n
  | .intensity level => if level < 1 then 62 else if p.intensityDataCmd then 62 else 31
  | .showdigit _ _ => 119
  | .showsegment _ _ => 119
  | .toggledp _ _ => 119
  | .showdigitarray _ _ => 119 * p.n
  | .showsegmentarray _ => 119 * p.n
  | .clear => 119 * p.n
  | .showhex _ => 476
  | .on => 62
  | .off => 62
  | .wireData => 26
  | .wireAddr _ => 26
  | .wireCtrl _ _ => 26

/-- The number of frames of an operation that sends whole frames; 0 for the others (R153). -/
def frameCount (p : Params) : Instr → Nat
  | .start | .stop | .writebyte _ | .wireData | .wireAddr _ | .wireCtrl _ _ | .enc _ => 0
  | .datacmd | .addrdata _ _ | .dispctrl => 1
  | .dat _ _ | .showdigit _ _ | .showsegment _ _ | .toggledp _ _ => 3
  | .init | .showdigitarray _ _ | .showsegmentarray _ | .clear => 3 * p.n
  | .intensity level => if level < 1 then 2 else if p.intensityDataCmd then 2 else 1
  | .showhex _ => 12
  | .on | .off => 2

/-- The number of rising clock edges of an operation (R153). -/
def edgeCount (p : Params) : Instr → Nat
  | .start | .enc _ => 0
  | .stop => 1
  | .writebyte _ | .wireData | .wireAddr _ | .wireCtrl _ _ => 9
  | .datacmd | .dispctrl => 10
  | .addrdata _ _ => 19
  | .dat _ _ | .showdigit _ _ | .showsegment _ _ | .toggledp _ _ => 39
  | .init | .showdigitarray _ _ | .showsegmentarray _ | .clear => 39 * p.n
  | .intensity level => if level < 1 then 20 else if p.intensityDataCmd then 20 else 10
  | .showhex _ => 156
  | .on | .off => 20

/-- The clock level R153 counts the edges of an operation from: low for a byte and for `STOP`, the idle bus for the rest. -/
def clockBefore : Instr → Level
  | .stop | .writebyte _ | .wireData | .wireAddr _ | .wireCtrl _ _ => false
  | .start | .enc _ | .datacmd | .dispctrl | .addrdata _ _ | .dat _ _ | .showdigit _ _ | .showsegment _ _
  | .toggledp _ _ | .init | .showdigitarray _ _ | .showsegmentarray _ | .clear | .intensity _ | .showhex _
  | .on | .off => true

/-- What a frame makes of the byte last sent for position `p`: an address and data frame for `p` replaces it (R12). -/
def sentBy (p : Nat) (last : Option Byte) : List Byte → Option Byte
  | [a, b] => if a = Wire.addressByte p then some b else last
  | _ => last

/-- The data byte of the most recent address and data frame for position `p` (R12). -/
def lastSent (p : Nat) (fs : List (List Byte)) : Option Byte :=
  fs.foldl (sentBy p) none

/-- What a frame makes of the last display-control byte: a one-byte frame with bits 7:6 = `10` replaces it (R52). -/
def controlBy (last : Option Byte) : List Byte → Option Byte
  | [c] => if c.extractLsb' 6 2 = 2#2 then some c else last
  | _ => last

/-- The most recent display-control byte (R52, R152). -/
def lastControl (fs : List (List Byte)) : Option Byte :=
  fs.foldl controlBy none

/-- The reader of R47 over everything emitted since reset and everything pending. -/
def wireReader (s : State) : Receiver :=
  (Receiver.fresh none none).read (s.trace ++ s.q)

/-- Every request the host has left is one of tier B. -/
def OnlyTierB (s : State) : Prop :=
  ∀ r ∈ s.requests, ∀ i, decode s.params r = .ok i → tierB i = true

/-- The mirror invariant and the control invariant, in terms of the frames a receiver reads: once everything pending is
out, the bus is idle, `SEG[i]` is the byte most recently sent for digit `i` (R12), and the most recent control byte is the
one `PWR` and `BRIGHT` stand for (R152). -/
def Mirrored (s : State) : Prop :=
  Safe s ∧ s.params.dpWriteback = true ∧ OnlyTierB s
    ∧ (wireReader s).clk = some true ∧ (wireReader s).dio = some true ∧ (wireReader s).inFrame = false
    ∧ (∀ i < s.params.n, lastSent i (wireReader s).frames = s.seg[i]?)
    ∧ lastControl (wireReader s).frames = some s.control

/-- Two segment buffers that differ at most in bit 7 of their entries (R110 corner d). -/
def AgreeBelowPoint (a b : Memory) : Prop :=
  a.map (· &&& 0x7F#8) = b.map (· &&& 0x7F#8)

end Sys2Proof.Machine
end

