-- ==== Sys2Proof/Certificates/Slice0/Obligations.lean ====
section
/-! DEFINITION. The statements for the provers, in the order of the spec's files. Frames are lists of bytes; `Wire.frames`
is their pin writes, pinned event by event by the statements on START, STOP, WRITEBYTE and DATACMD. Every statement on what
an operation does gives the WHOLE next state, so it is its frame as well: a field the record update does not name is
unchanged. Every statement holds for every value of the parameters inside their domains (R4, R5). -/

open Sys2Proof Sys2Proof.Machine

/-! ## The step -/

/-- R19, R155 (the request list is the model's, log 7): an idle block takes the host's next request and performs exactly the
operation it decodes to; a request that is no operation is refused by name. That operands which do not match their selector
and `wire8` bytes which are no command byte count among those is the model's choice (log 21, log 2). -/
def Obligations.StepRunsTheDecodedRequest : Prop :=
  ∀ (s : State) (r : Request) (rs : List Request), Accepting s → s.requests = r :: rs →
    (∀ i, decode s.params r = .ok i → step s = exec i { s with requests := rs })
    ∧ (∀ e, decode s.params r = .error e → step s = .refused (.badRequest e))

/-- R16, R17, R20: a busy block emits the head of `Q`: its latch takes the level, the other is unchanged, the trace grows by
that event, nothing else changes. -/
def Obligations.BusyStepEmitsTheNextEvent : Prop :=
  ∀ (s : State) (v : Level) (rest : List Event), s.params.valid = true →
    (s.q = .c v :: rest → step s = .next { s with clk := some v, q := rest, trace := s.trace ++ [.c v] })
    ∧ (s.q = .d v :: rest → step s = .next { s with dio := some v, q := rest, trace := s.trace ++ [.d v] })

/-- The model's choice (log 7): an idle block nobody asks anything stays as it is; it has no way to end a run (R155). -/
def Obligations.IdleStepChangesNothing : Prop :=
  ∀ s : State, Accepting s → RunOver s → step s = .next s

/-- The model's choice (log 8, log 20): a word placed by `withFetchWord` is what the very next step runs, in the block with its
pending events emitted. -/
def Obligations.PlacedWordRunsNext : Prop :=
  ∀ (s : State) (nbits w : Nat) (i : Instr), s.params.valid = true →
    decode s.params (requestOfWord w) = .ok i →
    step (s.withFetchWord nbits w) = exec i s.drain

/-! ## Reset -/

/-- R4, R23 first column: this hardware at reset release. `INTENSITY_DATA_CMD` and `HEX_ORDER` are OPEN in R4; that they have
its defaults here, and `DP_WRITEBACK` its hardware value, is the model's choice for `State.reset` (log 3). `PWR` and `BRIGHT`
are the spec's decision D10 (log 10); the latches without a value, `Q` and `BUSY` are its decisions D3 and D11. -/
def Obligations.ResetReleaseValues : Prop :=
  State.reset.params = ⟨4, 7, false, [0, 1, 2, 3], true⟩
    ∧ State.reset.seg = [0x00#8, 0x00#8, 0x00#8, 0x00#8]
    ∧ State.reset.pwr = .on ∧ State.reset.pwr.number = 8#8 ∧ State.reset.bright = 6#3
    ∧ State.reset.clk = none ∧ State.reset.dio = none
    ∧ State.reset.busy = true ∧ State.reset.q.length = 478 ∧ State.reset.trace = []

/-- R101, R140 (with D9, D10, D11, D24): reset is construction. Whatever `SEG`, `PWR` and `BRIGHT` hold, accepting `INIT` in a
block whose lines have not been written gives exactly the state at reset release. -/
def Obligations.ResetIsTheAcceptanceOfInit : Prop :=
  ∀ (p : Params) (m : Memory) (v : Power) (b : BitVec 3), p.valid = true →
    exec .init { State.resetWith p with seg := m, pwr := v, bright := b, q := [] } = .next (State.resetWith p)

/-- R23, R24, R140, R141 (with D9, D10, D11): from reset release, after 2 + 119 N steps and with no request, the block is at
ready, and the control byte of this hardware there is `0x8E`. -/
def Obligations.ResetRunsToReady : Prop :=
  (∀ p : Params, p.valid = true →
    Host.Core.run Sys2Proof.core (2 + 119 * p.n) (State.resetWith p) = .next (State.readyWith p))
  ∧ (State.readyWith Config.hardware).control = 0x8E#8

/-- R127, R140, R155: reset asserted in any state, in the middle of an operation too, is reset release again, and the trace
restarts with `INIT`: 2 + 119 N steps later the block is at ready with only the events of `INIT` in its trace. Of a reset
in mid-operation R127 says only that the trace restarts with `INIT`, and R127, R155 and U21 put the rest outside the model:
that it is full reset release, the pending events dropped and the latches without a value, is the model's (log 15, DEDUCED).
That the host's remaining requests stay and the returned bytes are emptied is the model's choice (log 15, DESIGN CHOICE). -/
def Obligations.HostResetRestartsWithInit : Prop :=
  ∀ s : State,
    (s.params.valid = true → ∃ t : State,
      hostReset s = .next t ∧ t = { State.resetWith s.params with requests := s.requests }
      ∧ Host.Core.run Sys2Proof.core (2 + 119 * s.params.n) t
          = .next { State.readyWith s.params with requests := s.requests })
    ∧ (s.params.valid = false → hostReset s = .refused .badConfiguration)

/-! ## Frame transport -/

/-- R71: `START` emits `D0 C0`, writes no register, and leaves both lines low. To a receiver that is a start edge from the
idle bus, and no edge from both lines low or from the data line low. -/
def Obligations.StartForcesBothLinesLow : Prop :=
  ∀ s : State, Accepting s →
    decode s.params (.opsel5 0x01#5 []) = .ok .start
    ∧ exec .start s = .next { s with q := [.d false, .c false] }
    ∧ perform .start s =
        .next { s with clk := some false, dio := some false, trace := s.trace ++ [.d false, .c false] }
    ∧ dataEdges (some true) (some true) [.d false, .c false] = [false]
    ∧ dataEdges (some false) (some false) [.d false, .c false] = []
    ∧ dataEdges (some true) (some false) [.d false, .c false] = []

/-- R72: `STOP` emits `D0 C1 D1`, writes no register, and leaves the idle bus. With the clock low before, whatever the data
line, it is one stop edge and one clock edge; from the idle bus it is an empty frame. -/
def Obligations.StopLeavesTheIdleBus : Prop :=
  ∀ s : State, Accepting s →
    decode s.params (.opsel5 0x02#5 []) = .ok .stop
    ∧ exec .stop s = .next { s with q := [.d false, .c true, .d true] }
    ∧ perform .stop s =
        .next { s with clk := some true, dio := some true, trace := s.trace ++ [.d false, .c true, .d true] }
    ∧ (∀ d : Option Level, dataEdges (some false) d [.d false, .c true, .d true] = [true])
    ∧ risingEdges (some false) [.d false, .c true, .d true] = 1
    ∧ dataEdges (some true) (some true) [.d false, .c true, .d true] = [false, true]

/-- R73, R74 (no data write in the ACK slot is the spec's decision D7): `WRITEBYTE b` emits the eight bit cells, least significant bit first, and a clock pulse with no data write; it
writes no register and leaves the clock low and the data line at bit 7. -/
def Obligations.WritebyteSendsLeastSignificantFirst : Prop :=
  ∀ (s : State) (b : Byte), Accepting s →
    decode s.params (.opsel5 0x03#5 [.byte b]) = .ok (.writebyte b) ∧ ∃ es : List Event,
    es = [.d b[0], .c true, .c false, .d b[1], .c true, .c false, .d b[2], .c true, .c false,
          .d b[3], .c true, .c false, .d b[4], .c true, .c false, .d b[5], .c true, .c false,
          .d b[6], .c true, .c false, .d b[7], .c true, .c false, .c true, .c false]
    ∧ exec (.writebyte b) s = .next { s with q := es }
    ∧ perform (.writebyte b) s =
        .next { s with clk := some false, dio := some b[7], trace := s.trace ++ es }

/-- R75 (3) and (4), any number of bytes: from the idle bus a frame changes the data line while the clock is high exactly
twice, falling then rising, and the clock rises nine times per byte and once in `STOP`. -/
def Obligations.FrameHasOneStartAndOneStopEdge : Prop :=
  ∀ bytes : List Byte,
    dataEdges (some true) (some true) (Wire.frame bytes) = [false, true]
    ∧ risingEdges (some true) (Wire.frame bytes) = 9 * bytes.length + 1

/-! ## Command layer -/

/-- R80 (with D7): `DATACMD` emits these 31 events whatever the state, writes no register, and leaves the idle bus. -/
def Obligations.DatacmdSendsItsFixedFrame : Prop :=
  ∀ s : State, Accepting s →
    decode s.params (.opsel5 0x04#5 []) = .ok .datacmd ∧ ∃ es : List Event,
    es = [.d false, .c false,
          .d false, .c true, .c false, .d false, .c true, .c false, .d false, .c true, .c false,
          .d false, .c true, .c false, .d false, .c true, .c false, .d false, .c true, .c false,
          .d true, .c true, .c false, .d false, .c true, .c false, .c true, .c false,
          .d false, .c true, .d true]
    ∧ exec .datacmd s = .next { s with q := es }
    ∧ perform .datacmd s = .next { s with clk := some true, dio := some true, trace := s.trace ++ es }

/-- R81: `ADDRDATA pos, data` sends one frame of two bytes, the address `0xC0 | (pos mod N)` first, in 57 events, writes no
register, and leaves the idle bus; there is no start or stop between the bytes. -/
def Obligations.AddrdataSendsAddressThenData : Prop :=
  ∀ (s : State) (pos : Nat) (data : Byte), Accepting s →
    decode s.params (.opsel5 0x05#5 [.nat pos, .byte data]) = .ok (.addrdata pos data) ∧ ∃ es : List Event,
    es = [.d false, .c false] ++ Wire.byte (0xC0#8 ||| BitVec.ofNat 8 (pos % s.params.n)) ++ Wire.byte data
          ++ [.d false, .c true, .d true]
    ∧ es.length = 57
    ∧ exec (.addrdata pos data) s = .next { s with q := es }
    ∧ perform (.addrdata pos data) s =
        .next { s with clk := some true, dio := some true, trace := s.trace ++ es }

/-- R82: `DISPCTRL` sends the frame of the one byte `0x80 | PWR | BRIGHT` in 31 events, writes no register, and leaves the
idle bus; the byte is one of `0x80` to `0x8F`. -/
def Obligations.DispctrlSendsPowerAndBrightness : Prop :=
  ∀ s : State, Accepting s →
    decode s.params (.opsel5 0x06#5 []) = .ok .dispctrl ∧ ∃ (c : Byte) (es : List Event),
    c.toNat = 0x80 + s.pwr.number.toNat + s.bright.toNat ∧ c = 0x80#8 ||| s.pwr.number ||| s.bright.zeroExtend 8
    ∧ es = [.d false, .c false] ++ Wire.byte c ++ [.d false, .c true, .d true]
    ∧ es.length = 31
    ∧ exec .dispctrl s = .next { s with q := es }
    ∧ perform .dispctrl s = .next { s with clk := some true, dio := some true, trace := s.trace ++ es }

/-- R83: `DAT pos, data` sends the three frames data command, address and data, display control, in 119 events, writes no
register (`SEG` neither), and leaves the idle bus. -/
def Obligations.DatWrapsOneDigitWrite : Prop :=
  ∀ (s : State) (pos : Nat) (data : Byte), Accepting s →
    decode s.params (.opsel5 0x07#5 [.nat pos, .byte data]) = .ok (.dat pos data) ∧ ∃ es : List Event,
    es = Wire.frame [0x40#8] ++ Wire.frame [0xC0#8 ||| BitVec.ofNat 8 (pos % s.params.n), data]
          ++ Wire.frame [0x80#8 ||| s.pwr.number ||| s.bright.zeroExtend 8]
    ∧ es.length = 119
    ∧ exec (.dat pos data) s = .next { s with q := es }
    ∧ perform (.dat pos data) s =
        .next { s with clk := some true, dio := some true, trace := s.trace ++ es }

/-- R34, R70, R85 (D19), and the wire-byte rows (log 2): no operation outside tier B writes `SEG`, `PWR` or `BRIGHT`. -/
def Obligations.LowerLayersWriteNoRegister : Prop :=
  ∀ (i : Instr) (s t : State), tierB i = false → exec i s = .next t →
    t.seg = s.seg ∧ t.pwr = s.pwr ∧ t.bright = s.bright

/-- The model's choice (log 2): a wire-byte row puts its one byte (R53, R54, R55) through the serialiser as `WRITEBYTE` of it
does, and nothing else happens. -/
def Obligations.WireRowsSendTheirByte : Prop :=
  ∀ (s : State) (a : BitVec 6) (p : Bool) (b : BitVec 3), Accepting s →
    exec .wireData s = .next { s with q := Wire.byte 0x40#8 }
    ∧ exec (.wireAddr a) s = .next { s with q := Wire.byte (0xC0#8 ||| BitVec.ofNat 8 (a.toNat % s.params.n)) }
    ∧ (a.toNat < s.params.n → 0xC0#8 ||| BitVec.ofNat 8 (a.toNat % s.params.n) = 0xC0#8 + a.zeroExtend 8)
    ∧ exec (.wireCtrl p b) s =
        .next { s with q := Wire.byte (0x80#8 + (if p then 8#8 else 0#8) + b.zeroExtend 8) }

/-! ## Digit table -/

/-- R90: the table, read at the low four bits of any value. -/
def Obligations.DigitTableContents : Prop :=
  ∀ v : Nat,
    [0x3F#8, 0x06#8, 0x5B#8, 0x4F#8, 0x66#8, 0x6D#8, 0x7D#8, 0x07#8, 0x7F#8, 0x6F#8, 0x77#8, 0x7C#8, 0x39#8, 0x5E#8,
      0x79#8, 0x71#8][v % 16]? = some (segmentPattern v)

/-- R91 (the host's result list is the model's, log 5): `ENC value` emits nothing, writes no register, leaves the latches,
and returns the table's byte at `value mod 16`; the block is idle at once. -/
def Obligations.EncReturnsTheTableByte : Prop :=
  ∀ (s : State) (value : Nat), Accepting s →
    decode s.params (.opsel5 0x08#5 [.nat value]) = .ok (.enc value)
    ∧ exec (.enc value) s = .next { s with returned := s.returned ++ [lut.getD (value % 16) 0x00#8] }
    ∧ perform (.enc value) s = .next { s with returned := s.returned ++ [lut.getD (value % 16) 0x00#8] }

/-- R92: no pattern has bit 7 set or is blank, and the lookup is injective on 0..15. -/
def Obligations.DigitTableProperties : Prop :=
  (∀ v : Nat, (segmentPattern v)[7] = false ∧ segmentPattern v ≠ 0x00#8)
  ∧ ∀ v w : Nat, v < 16 → w < 16 → segmentPattern v = segmentPattern w → v = w

/-! ## Display operations -/

/-- R101 (with D9, D10, D15): `INIT` sets the power flag and the brightness, clears `SEG`, drives the clock low and then the
data line, and sends one group per position; every other register it finds is discarded. -/
def Obligations.InitClearsEveryPosition : Prop :=
  ∀ s : State, Accepting s →
    decode s.params (.opsel5 0x00#5 []) = .ok .init ∧ ∃ (b : BitVec 3) (es : List Event),
    b.toNat = s.params.initLevel - 1
    ∧ es = [.c false, .d false] ++ Wire.frames ((List.range s.params.n).flatMap fun i =>
        [[0x40#8], [0xC0#8 ||| BitVec.ofNat 8 i, 0x00#8], [0x88#8 ||| b.zeroExtend 8]])
    ∧ es.length = 2 + 119 * s.params.n
    ∧ exec .init s =
        .next { s with seg := List.replicate s.params.n 0x00#8, pwr := .on, bright := b, q := es }

/-- R102, R59, both values of `INTENSITY_DATA_CMD`: a level of 1 or more turns the display on, sets `BRIGHT` to
`min(level, 8) - 1` and sends the control byte, after a data command only if the parameter says so; a level below 1 is
exactly `OFF`; a level above 8 is exactly 8. -/
def Obligations.IntensityClampsAndShifts : Prop :=
  ∀ (s : State) (level : Int),
    decode s.params (.opsel5 0x09#5 [.int level]) = .ok (.intensity level)
    ∧ (Accepting s → 1 ≤ level → ∃ (b : BitVec 3) (es : List Event), (b.toNat : Int) = min level 8 - 1
      ∧ es = (if s.params.intensityDataCmd then Wire.frame [0x40#8] else []) ++ Wire.frame [0x88#8 ||| b.zeroExtend 8]
      ∧ es.length = (if s.params.intensityDataCmd then 62 else 31)
      ∧ exec (.intensity level) s = .next { s with pwr := .on, bright := b, q := es })
    ∧ (level < 1 → exec (.intensity level) s = exec .off s)
    ∧ (8 < level → exec (.intensity level) s = exec (.intensity 8) s)

/-- R103: `SHOWDIGIT value, pos` stores the pattern of `value mod 16` at `pos mod N` and nowhere else, and sends that byte
there wrapped as a `DAT`. -/
def Obligations.ShowdigitStoresAndSendsThePattern : Prop :=
  ∀ (s : State) (value pos : Nat), Accepting s → SegSized s →
    decode s.params (.opsel5 0x0A#5 [.nat value, .nat pos]) = .ok (.showdigit value pos) ∧ ∃ t : State,
    exec (.showdigit value pos) s = .next t
    ∧ t = { s with
        seg := s.seg.set (pos % s.params.n) (lut.getD (value % 16) 0x00#8)
        q := Wire.frames [[0x40#8], [0xC0#8 ||| BitVec.ofNat 8 (pos % s.params.n), lut.getD (value % 16) 0x00#8],
          [0x80#8 ||| s.pwr.number ||| s.bright.zeroExtend 8]] }
    ∧ t.q.length = 119
    ∧ t.seg[pos % s.params.n]? = some (lut.getD (value % 16) 0x00#8)
    ∧ ∀ j, j ≠ pos % s.params.n → t.seg[j]? = s.seg[j]?

/-- R105: `SHOWSEGMENT pos, rawByte` stores the raw byte at `pos mod N` and nowhere else, and sends it there wrapped as a
`DAT`. -/
def Obligations.ShowsegmentStoresAndSendsTheRawByte : Prop :=
  ∀ (s : State) (pos : Nat) (rawByte : Byte), Accepting s → SegSized s →
    decode s.params (.opsel5 0x0C#5 [.nat pos, .byte rawByte]) = .ok (.showsegment pos rawByte) ∧ ∃ t : State,
    exec (.showsegment pos rawByte) s = .next t
    ∧ t = { s with
        seg := s.seg.set (pos % s.params.n) rawByte
        q := Wire.frames [[0x40#8], [0xC0#8 ||| BitVec.ofNat 8 (pos % s.params.n), rawByte],
          [0x80#8 ||| s.pwr.number ||| s.bright.zeroExtend 8]] }
    ∧ t.q.length = 119
    ∧ t.seg[pos % s.params.n]? = some rawByte
    ∧ ∀ j, j ≠ pos % s.params.n → t.seg[j]? = s.seg[j]?

/-- R104 (with D15, D17): `SHOWDIGITARRAY` shows at each position the digit of its entry if it is in 0..9 and the blank glyph
otherwise, missing entries blank, extra ones dropped; one group per position, ascending. -/
def Obligations.ShowdigitarrayShowsDigitsAndBlanks : Prop :=
  ∀ (s : State) (values : List Nat) (blankPos : Nat) (glyph : Nat → Byte), Accepting s → SegSized s →
    (∀ i v, values[i]? = some v → v ≤ 9 → glyph i = lut.getD v 0x00#8) →
    (∀ i v, values[i]? = some v → 9 < v → glyph i = 0x00#8) →
    (∀ i, values.length ≤ i → glyph i = 0x00#8) →
    decode s.params (.opsel5 0x0B#5 [.nats values, .nat blankPos]) = .ok (.showdigitarray values blankPos)
    ∧ exec (.showdigitarray values blankPos) s =
      .next { s with
        seg := (List.range s.params.n).map glyph
        q := Wire.frames ((List.range s.params.n).flatMap fun i =>
          [[0x40#8], [0xC0#8 ||| BitVec.ofNat 8 i, glyph i],
           [0x80#8 ||| s.pwr.number ||| s.bright.zeroExtend 8]]) }

/-- R107: `blankPos` has no effect, for any two values of it and in every state. -/
def Obligations.BlankPosHasNoEffect : Prop :=
  ∀ (s : State) (values : List Nat) (a b : Nat),
    exec (.showdigitarray values a) s = exec (.showdigitarray values b) s

/-- R106 (with D15, D16): `SHOWSEGMENTARRAY` stores and sends the bytes in ascending position order, zero where one is
missing; a list longer than `N` is refused. That `overlongList` is the reason named in busy and misconfigured blocks too is
the model's choice (log 6). -/
def Obligations.ShowsegmentarrayPadsOrRefuses : Prop :=
  ∀ (s : State) (bytes : List Byte),
    decode s.params (.opsel5 0x0D#5 [.bytes bytes]) = .ok (.showsegmentarray bytes)
    ∧ (Accepting s → SegSized s → bytes.length ≤ s.params.n →
      exec (.showsegmentarray bytes) s =
        .next { s with
          seg := bytes ++ List.replicate (s.params.n - bytes.length) 0x00#8
          q := Wire.frames ((List.range s.params.n).flatMap fun i =>
            [[0x40#8], [0xC0#8 ||| BitVec.ofNat 8 i, bytes.getD i 0x00#8],
             [0x80#8 ||| s.pwr.number ||| s.bright.zeroExtend 8]]) })
    ∧ (s.params.n < bytes.length → exec (.showsegmentarray bytes) s = .refused .overlongList)

/-- R37, R108, every `HEX_ORDER` and every `N`: `SHOWHEX` writes and sends the four nibbles, nibble `k` counted from the most
significant at position `k mod N`, in the order of the parameter. -/
def Obligations.ShowhexWritesFourNibbles : Prop :=
  ∀ (s : State) (value : BitVec 16) (glyph : Nat → Byte), Accepting s →
    glyph 0 = lut.getD (value.toNat / 4096) 0x00#8 → glyph 1 = lut.getD (value.toNat / 256 % 16) 0x00#8 →
    glyph 2 = lut.getD (value.toNat / 16 % 16) 0x00#8 → glyph 3 = lut.getD (value.toNat % 16) 0x00#8 →
    decode s.params (.opsel5 0x0E#5 [.hex value]) = .ok (.showhex value)
    ∧ exec (.showhex value) s =
      .next { s with
        seg := s.params.hexOrder.foldl (fun m k => m.set (k % s.params.n) (glyph k)) s.seg
        q := Wire.frames (s.params.hexOrder.flatMap fun k =>
          [[0x40#8], [0xC0#8 ||| BitVec.ofNat 8 (k % s.params.n), glyph k],
           [0x80#8 ||| s.pwr.number ||| s.bright.zeroExtend 8]]) }

/-- R109: with `N` of 4 or more, two blocks that differ in `HEX_ORDER` alone end `SHOWHEX` with the same registers, and their
frames are the same groups in another order; positions 4 and above are untouched. -/
def Obligations.HexOrderPermutesGroupsOnly : Prop :=
  ∀ (s : State) (value : BitVec 16) (order : List Nat), Accepting s → SegSized s → 4 ≤ s.params.n →
    order.isPerm [0, 1, 2, 3] = true →
    ∃ (t u : State) (gs hs : List (List (List Byte))),
      exec (.showhex value) s = .next t
      ∧ exec (.showhex value) { s with params := { s.params with hexOrder := order } } = .next u
      ∧ u.seg = t.seg ∧ u.pwr = t.pwr ∧ u.bright = t.bright
      ∧ t.q = Wire.frames gs.flatten ∧ u.q = Wire.frames hs.flatten ∧ gs.Perm hs ∧ gs.length = 4
      ∧ (∀ g ∈ gs, g.length = 3)
      ∧ (∀ j, 4 ≤ j → t.seg[j]? = s.seg[j]?)

/-- R110, both values of `DP_WRITEBACK`: `TOGGLEDP pos, show` sends the stored byte with bit 7 set or cleared and bits 6..0
kept, wrapped as a `DAT`, and stores it back if the parameter says so; it does not toggle. -/
def Obligations.ToggledpSetsOrClearsThePoint : Prop :=
  ∀ (s : State) (pos : Nat) (shown : Bool) (b : Byte), Accepting s → s.seg[pos % s.params.n]? = some b →
    decode s.params (.opsel5 0x0F#5 [.nat pos, .flag shown]) = .ok (.toggledp pos shown) ∧ ∃ b' : Byte, b' = (if shown then b ||| 0x80#8 else b &&& 0x7F#8)
      ∧ b'[7] = shown ∧ (∀ k < 7, b'.getLsbD k = b.getLsbD k)
      ∧ exec (.toggledp pos shown) s =
          .next { s with
            seg := if s.params.dpWriteback then s.seg.set (pos % s.params.n) b' else s.seg
            q := Wire.frames [[0x40#8], [0xC0#8 ||| BitVec.ofNat 8 (pos % s.params.n), b'],
              [0x80#8 ||| s.pwr.number ||| s.bright.zeroExtend 8]] }

/-- The document's testable property under R110: after `SHOWSEGMENT pos, b`, `TOGGLEDP` transmits `b | 0x80` or `b & 0x7F`,
and doing it twice with the same flag sends the same frames and leaves the same registers. -/
def Obligations.PointAfterSegmentIsIdempotent : Prop :=
  ∀ (s t : State) (pos : Nat) (b : Byte) (shown : Bool), SegSized s →
    perform (.showsegment pos b) s = .next t →
    ∃ u v : State, exec (.toggledp pos shown) t = .next u ∧ exec (.toggledp pos shown) u.drain = .next v
      ∧ u.q = Wire.frames [[0x40#8],
          [0xC0#8 ||| BitVec.ofNat 8 (pos % s.params.n), if shown then b ||| 0x80#8 else b &&& 0x7F#8],
          [0x80#8 ||| s.pwr.number ||| s.bright.zeroExtend 8]]
      ∧ v.q = u.q ∧ v.seg = u.seg ∧ v.pwr = u.pwr ∧ v.bright = u.bright

/-- R110 corner (d), R5: `DP_WRITEBACK` is invisible on the wire. Two blocks alike but for that parameter and for bit 7 of
their `SEG` entries emit the same events for every operation, and stay so alike. -/
def Obligations.WritebackIsInvisibleOnTheWire : Prop :=
  ∀ (i : Instr) (s t : State) (m : Memory) (w : Bool), exec i s = .next t → AgreeBelowPoint s.seg m →
    ∃ m' : Memory, AgreeBelowPoint t.seg m'
      ∧ exec i { s with seg := m, params := { s.params with dpWriteback := w } } =
          .next { t with seg := m', params := { t.params with dpWriteback := w } }

/-- R111 (with D15): `CLEAR` stores and sends 0 at every position and leaves `PWR` and `BRIGHT`. -/
def Obligations.ClearBlanksEveryPosition : Prop :=
  ∀ s : State, Accepting s → SegSized s →
    decode s.params (.opsel5 0x10#5 []) = .ok .clear
    ∧ exec .clear s =
      .next { s with
        seg := List.replicate s.params.n 0x00#8
        q := Wire.frames ((List.range s.params.n).flatMap fun i =>
          [[0x40#8], [0xC0#8 ||| BitVec.ofNat 8 i, 0x00#8],
           [0x80#8 ||| s.pwr.number ||| s.bright.zeroExtend 8]]) }

/-- R104 (b), R106 (b), R111 (b): `CLEAR`, `SHOWSEGMENTARRAY []` and `SHOWDIGITARRAY [], x` are the same operation, in every
state. -/
def Obligations.EmptyArraysAreClear : Prop :=
  ∀ (s : State) (x : Nat),
    exec (.showsegmentarray []) s = exec .clear s ∧ exec (.showdigitarray [] x) s = exec .clear s

/-- R112: `ON` sets the power flag and sends the data command and the control byte with the brightness held; nothing else
changes. -/
def Obligations.OnKeepsBrightnessAndBuffer : Prop :=
  ∀ s : State, Accepting s →
    decode s.params (.opsel5 0x11#5 []) = .ok .on ∧ ∃ es : List Event,
    es = Wire.frame [0x40#8] ++ Wire.frame [0x88#8 ||| s.bright.zeroExtend 8]
    ∧ es.length = 62
    ∧ exec .on s = .next { s with pwr := .on, q := es }

/-- R113: `OFF` clears the power flag and sends the data command and the control byte with the brightness held; nothing else
changes. -/
def Obligations.OffKeepsBrightnessAndBuffer : Prop :=
  ∀ s : State, Accepting s →
    decode s.params (.opsel5 0x12#5 []) = .ok .off ∧ ∃ es : List Event,
    es = Wire.frame [0x40#8] ++ Wire.frame [0x80#8 ||| s.bright.zeroExtend 8]
    ∧ es.length = 62
    ∧ exec .off s = .next { s with pwr := .off, q := es }

/-- R100 item 5, R75 (5), R80 to R83: every operation of the command layer and of tier B leaves the idle bus, whatever the
line levels it starts from. -/
def Obligations.FramedOperationsLeaveTheIdleBus : Prop :=
  ∀ (i : Instr) (s t : State), (tierB i = true ∨ commandLayer i = true) → 1 ≤ s.params.n →
    perform i s = .next t → IdleBus t

/-- R13, R14, R117: the only operations that change `PWR` are `INIT`, `INTENSITY`, `ON` and `OFF`, and the only ones that
change `BRIGHT` are `INIT` and `INTENSITY` with level 1 or more. -/
def Obligations.ControlRegisterWriters : Prop :=
  ∀ (i : Instr) (s t : State), exec i s = .next t →
    (t.pwr ≠ s.pwr → i = .init ∨ i = .on ∨ i = .off ∨ ∃ level, i = .intensity level)
    ∧ (t.bright ≠ s.bright → i = .init ∨ ∃ level, 1 ≤ level ∧ i = .intensity level)

/-- R10, R11: `SEG` keeps its size, only the operations R10 names change it, and `TOGGLEDP` only with the write-back. -/
def Obligations.SegmentBufferWriters : Prop :=
  ∀ (i : Instr) (s t : State), exec i s = .next t →
    (SegSized s → SegSized t)
    ∧ (t.seg ≠ s.seg →
        i = .init ∨ i = .clear ∨ (∃ v p, i = .showdigit v p) ∨ (∃ p b, i = .showsegment p b)
        ∨ (∃ vs k, i = .showdigitarray vs k) ∨ (∃ bs, i = .showsegmentarray bs) ∨ (∃ v, i = .showhex v)
        ∨ (∃ p f, i = .toggledp p f ∧ s.params.dpWriteback = true))

/-! ## The whole machine -/

/-- R10, R16, R17, R20, R23 (and logs 3, 5, 7): acceptance of an operation touches neither a latch nor the trace nor the
parameters nor the host's remaining requests, and only `ENC` returns a byte. -/
def Obligations.AcceptanceFrame : Prop :=
  ∀ (i : Instr) (s t : State), exec i s = .next t →
    t.params = s.params ∧ t.clk = s.clk ∧ t.dio = s.dio ∧ t.trace = s.trace ∧ t.requests = s.requests
    ∧ ((∀ v, i ≠ .enc v) → t.returned = s.returned)

/-- R16, R17, R70: no operation reads a line level or the trace. Two blocks alike but for these do the same. -/
def Obligations.LineLevelsAreNeverRead : Prop :=
  ∀ (i : Instr) (s t : State) (c d : Option Level) (es : List Event), exec i s = .next t →
    exec i { s with clk := c, dio := d, trace := es } = .next { t with clk := c, dio := d, trace := es }

/-- R100 item 1, R120, R125: an accepting block performs every operation with every operand; the one exception is the list
longer than `N` that the spec refuses. -/
def Obligations.EveryOperationCompletes : Prop :=
  ∀ (i : Instr) (s : State), Accepting s →
    (∃ t, exec i s = .next t)
    ∨ ∃ bytes, i = .showsegmentarray bytes ∧ s.params.n < bytes.length ∧ exec i s = .refused .overlongList

/-- R125 items 2 to 4, R149 (with D16, D18): while `BUSY = 1`, and in a block with a parameter outside its domain, every
operation is refused, and in such a block every step. R125 orders no reasons: that a list longer than `N` is named first,
then the configuration, then busy, is the model's choice (log 6). -/
def Obligations.BusyOrMisconfiguredBlockRefuses : Prop :=
  ∀ (i : Instr) (s : State),
    (s.params.valid = true → s.q ≠ [] → (∀ bytes, i = .showsegmentarray bytes → bytes.length ≤ s.params.n) →
      exec i s = .refused .busy)
    ∧ (s.params.valid = false → (∀ bytes, i = .showsegmentarray bytes → bytes.length ≤ s.params.n) →
      exec i s = .refused .badConfiguration)
    ∧ (s.params.valid = false → step s = .refused .badConfiguration)
    ∧ (∀ bytes, i = .showsegmentarray bytes → s.params.n < bytes.length → exec i s = .refused .overlongList)

/-- R153 (the wire-byte rows count as one byte, log 2): the number of events, of frames and of rising clock edges of every
operation, the edges of `INIT` from any clock level, no value included. That the two events before the frames of `INIT` are
`C0` then `D0` is R101 with the spec's decision D9 (log 12). -/
def Obligations.EventFrameAndEdgeCounts : Prop :=
  ∀ (i : Instr) (s t : State), exec i s = .next t →
    t.q.length = eventCount s.params i
    ∧ (∀ c : Option Level, c = some (clockBefore i) ∨ i = .init → risingEdges c t.q = edgeCount s.params i)
    ∧ (tierB i = true ∨ commandLayer i = true →
        ∃ (low : List Event) (fs : List (List Byte)), t.q = low ++ Wire.frames fs ∧ fs.length = frameCount s.params i
          ∧ low = if i = .init then [.c false, .d false] else [])

/-- R4, R11: from every safe state a step leads to a safe state: the parameters stay in their domains and `SEG` keeps one
entry for each position. -/
def Obligations.StepKeepsSafe : Prop :=
  ∀ s t : State, Safe s → step s = .next t → Safe t

/-- R4, R23: the state at reset release is safe, for this hardware and for every parameter in its domain. -/
def Obligations.ResetIsSafe : Prop :=
  Safe State.reset ∧ ∀ p : Params, p.valid = true → Safe (State.resetWith p)

/-- R43: no step drops, duplicates, merges or reorders an event. What has been and will be emitted only grows at its end,
and the trace by at most one event. -/
def Obligations.StepKeepsEventsInOrder : Prop :=
  ∀ s t : State, step s = .next t →
    s.trace ++ s.q <+: t.trace ++ t.q ∧ s.trace <+: t.trace ∧ t.trace.length ≤ s.trace.length + 1

/-- R20, R154: the sequencer never stalls. A block with any queue is idle after as many steps as the queue has events, every
one emitted in order, the latches at the last levels written, and nothing else changed. -/
def Obligations.QueueDrainsInItsLength : Prop :=
  ∀ s : State, s.params.valid = true →
    Host.Core.run Sys2Proof.core s.q.length s = .next s.drain
    ∧ s.drain.q = [] ∧ s.drain.trace = s.trace ++ s.q
    ∧ s.drain = { s with clk := s.drain.clk, dio := s.drain.dio, q := [], trace := s.trace ++ s.q }

/-- R19, R20, R155: the stepped machine refines the big-step meaning over any list of requests, from any idle block: if
performing them one after another gives a state, that is the state of the steps once the list is exhausted and
`BUSY = 0`, after one step a request and one an event; if a request is refused, the steps end in that refusal. -/
def Obligations.StepsRefineBigSteps : Prop :=
  ∀ (rs : List Request) (s : State), Accepting s → s.requests = [] →
    (∀ t, performAll rs s = .next t →
      RunOver t ∧ Host.Core.run Sys2Proof.core (rs.length + (t.trace.length - s.trace.length))
        { s with requests := rs } = .next t)
    ∧ (∀ e, performAll rs s = .refused e →
      ∃ k, Host.Core.run Sys2Proof.core k { s with requests := rs } = .refused e)

/-- R22 (with D22): read-back gives `SEG[i]`, `PWR` as 0 or 8, and `BRIGHT` of an idle block, and nothing while `BUSY = 1`.
That `BUSY` itself answers, with 1, while `BUSY = 1` is the model's choice (log 19). -/
def Obligations.ReadBackWhenIdleOnly : Prop :=
  ∀ (s : State) (i : Nat), SegSized s →
    (s.q = [] → readBusy s = false ∧ (i < s.params.n → readSeg s i = s.seg[i]? ∧ (readSeg s i).isSome = true)
      ∧ readPower s = some (if s.pwr = .on then 8#8 else 0#8) ∧ readBright s = some s.bright)
    ∧ (s.q ≠ [] → readBusy s = true ∧ readSeg s i = none ∧ readPower s = none ∧ readBright s = none)

/-- The document's round trip under R22 and R106: `SHOWSEGMENTARRAY` of `N` bytes followed by reading the buffer back yields
exactly those bytes. -/
def Obligations.SegmentArrayRoundTrip : Prop :=
  ∀ (s : State) (bytes : List Byte), Accepting s → SegSized s → bytes.length = s.params.n →
    ∃ t, perform (.showsegmentarray bytes) s = .next t
      ∧ (List.range s.params.n).map (readSeg t) = bytes.map some

/-! ## What a receiver reads -/

/-- R47, R75 (5): a receiver on an idle bus reads from any list of frames exactly those frames, of any length, and is left on
an idle bus with none open. -/
def Obligations.ReceiverReadsExactlyTheFrames : Prop :=
  ∀ (fs : List (List Byte)) (r : Receiver), r.clk = some true → r.dio = some true → r.inFrame = false →
    (r.read (Wire.frames fs)).frames = r.frames ++ fs
    ∧ (r.read (Wire.frames fs)).clk = some true ∧ (r.read (Wire.frames fs)).dio = some true
    ∧ (r.read (Wire.frames fs)).inFrame = false

/-- R150 (with D9): whatever the lines were before reset, a receiver reads from the trace of `INIT` every frame but the first:
the first has no start edge. -/
def Obligations.FirstFrameAfterResetIsNotRead : Prop :=
  ∀ (n : Nat) (ctrl : Byte) (c d : Option Level), 1 ≤ n →
    framesRead c d (Wire.initTrace n ctrl) =
      ((List.range n).flatMap fun i => [[0x40#8], [0xC0#8 ||| BitVec.ofNat 8 i, 0x00#8], [ctrl]]).tail

/-- R12, R152: with `DP_WRITEBACK` and requests of tier B alone, every step keeps the mirror: once what is pending is out,
`SEG[i]` is the byte a receiver last read for digit `i`, and the last control byte it read is the one `PWR` and `BRIGHT`
stand for. -/
def Obligations.StepKeepsTheMirror : Prop :=
  ∀ s t : State, Mirrored s → step s = .next t → Mirrored t

/-- R12, R152, R143: the mirror holds at reset release, for every parameter in its domain with `DP_WRITEBACK`. -/
def Obligations.ResetIsMirrored : Prop :=
  ∀ p : Params, p.valid = true → p.dpWriteback = true → Mirrored (State.resetWith p)

/-! ## Encoding -/

/-- R62, R63: decoding the encoding of any well-formed operation gives it back with every operand, and a request that decodes
to an operation is its encoding, so each operation has one request. The wire-byte rows have the layouts of R53, R54 and R55;
R52 calls them no operations, and that a request presents one and decodes to an operation is the model's choice (log 2). -/
def Obligations.DecodeAndEncodeAgree : Prop :=
  (∀ (cfg : Params) (i : Instr), i.wellFormed cfg = true → decode cfg (encode i) = .ok i)
  ∧ ∀ (cfg : Params) (r : Request) (i : Instr), decode cfg r = .ok i → encode i = r

/-- R64 item 1, R125 item 1 (with D18): a selector code `0x13` to `0x1F` selects no operation whatever comes with it, and a
request with one is refused. -/
def Obligations.ReservedSelectorsAreRefused : Prop :=
  ∀ (s : State) (opsel : BitVec 5) (operands : List Operand) (rs : List Request), 0x13 ≤ opsel.toNat →
    decode s.params (.opsel5 opsel operands) = .error (.reservedSelector opsel)
    ∧ (Accepting s → s.requests = .opsel5 opsel operands :: rs →
        step s = .refused (.badRequest (.reservedSelector opsel)))

/-- R63, R64: the nineteen selector words of the opcode table decode to their operations, and the first and the last reserved
word to none. That a bare word is a request, with zero operands, is the model's choice (log 20). The wire-byte words have the layouts of R53, R54 and R55; that a request presents
one and decodes to an operation is the model's choice (log 2). -/
def Obligations.TableWordsDecode : Prop :=
  (decodeTableWord 8 0b00000 = some .init ∧ decodeTableWord 8 0b00001 = some .start
    ∧ decodeTableWord 8 0b00010 = some .stop ∧ decodeTableWord 8 0b00011 = some (.writebyte 0x00#8)
    ∧ decodeTableWord 8 0b00100 = some .datacmd ∧ decodeTableWord 8 0b00101 = some (.addrdata 0 0x00#8)
    ∧ decodeTableWord 8 0b00110 = some .dispctrl ∧ decodeTableWord 8 0b00111 = some (.dat 0 0x00#8)
    ∧ decodeTableWord 8 0b01000 = some (.enc 0) ∧ decodeTableWord 8 0b01001 = some (.intensity 0)
    ∧ decodeTableWord 8 0b01010 = some (.showdigit 0 0) ∧ decodeTableWord 8 0b01011 = some (.showdigitarray [] 0)
    ∧ decodeTableWord 8 0b01100 = some (.showsegment 0 0x00#8) ∧ decodeTableWord 8 0b01101 = some (.showsegmentarray [])
    ∧ decodeTableWord 8 0b01110 = some (.showhex 0x0000#16) ∧ decodeTableWord 8 0b01111 = some (.toggledp 0 false)
    ∧ decodeTableWord 8 0b10000 = some .clear ∧ decodeTableWord 8 0b10001 = some .on
    ∧ decodeTableWord 8 0b10010 = some .off)
  ∧ (decodeTableWord 8 0b10011 = none ∧ decodeTableWord 8 0b11111 = none)
  ∧ (decodeTableWord 8 0b01000000 = some .wireData ∧ decodeTableWord 8 0b11000000 = some (.wireAddr 0#6)
    ∧ decodeTableWord 8 0b11000010 = some (.wireAddr 2#6) ∧ decodeTableWord 8 0b11000011 = some (.wireAddr 3#6)
    ∧ decodeTableWord 8 0b11000100 = none ∧ decodeTableWord 8 0b10000000 = some (.wireCtrl false 0#3)
    ∧ decodeTableWord 8 0b10001110 = some (.wireCtrl true 6#3) ∧ decodeTableWord 8 0b10010000 = none)
end

