-- ==== Sys2Proof/Laws/State.lean ====
section
/-! SUPPORT. One lemma per field per update of State, each true by rfl, so that no later proof unfolds a record update. -/

namespace Sys2Proof.Machine

variable (s : State)

/-! `emit` -/

@[simp] theorem State.emit_params (es : List Event) : (s.emit es).params = s.params := rfl
@[simp] theorem State.emit_seg (es : List Event) : (s.emit es).seg = s.seg := rfl
@[simp] theorem State.emit_pwr (es : List Event) : (s.emit es).pwr = s.pwr := rfl
@[simp] theorem State.emit_bright (es : List Event) : (s.emit es).bright = s.bright := rfl
@[simp] theorem State.emit_clk (es : List Event) : (s.emit es).clk = s.clk := rfl
@[simp] theorem State.emit_dio (es : List Event) : (s.emit es).dio = s.dio := rfl
@[simp] theorem State.emit_q (es : List Event) : (s.emit es).q = s.q ++ es := rfl
@[simp] theorem State.emit_trace (es : List Event) : (s.emit es).trace = s.trace := rfl
@[simp] theorem State.emit_returned (es : List Event) : (s.emit es).returned = s.returned := rfl
@[simp] theorem State.emit_requests (es : List Event) : (s.emit es).requests = s.requests := rfl

/-! `writeSeg` -/

@[simp] theorem State.writeSeg_params (i : Nat) (b : Byte) : (s.writeSeg i b).params = s.params := rfl
@[simp] theorem State.writeSeg_seg (i : Nat) (b : Byte) : (s.writeSeg i b).seg = s.seg.set i b := rfl
@[simp] theorem State.writeSeg_pwr (i : Nat) (b : Byte) : (s.writeSeg i b).pwr = s.pwr := rfl
@[simp] theorem State.writeSeg_bright (i : Nat) (b : Byte) : (s.writeSeg i b).bright = s.bright := rfl
@[simp] theorem State.writeSeg_clk (i : Nat) (b : Byte) : (s.writeSeg i b).clk = s.clk := rfl
@[simp] theorem State.writeSeg_dio (i : Nat) (b : Byte) : (s.writeSeg i b).dio = s.dio := rfl
@[simp] theorem State.writeSeg_q (i : Nat) (b : Byte) : (s.writeSeg i b).q = s.q := rfl
@[simp] theorem State.writeSeg_trace (i : Nat) (b : Byte) : (s.writeSeg i b).trace = s.trace := rfl
@[simp] theorem State.writeSeg_returned (i : Nat) (b : Byte) : (s.writeSeg i b).returned = s.returned := rfl
@[simp] theorem State.writeSeg_requests (i : Nat) (b : Byte) : (s.writeSeg i b).requests = s.requests := rfl

/-! `setPower` -/

@[simp] theorem State.setPower_params (v : Power) : (s.setPower v).params = s.params := rfl
@[simp] theorem State.setPower_seg (v : Power) : (s.setPower v).seg = s.seg := rfl
@[simp] theorem State.setPower_pwr (v : Power) : (s.setPower v).pwr = v := rfl
@[simp] theorem State.setPower_bright (v : Power) : (s.setPower v).bright = s.bright := rfl
@[simp] theorem State.setPower_clk (v : Power) : (s.setPower v).clk = s.clk := rfl
@[simp] theorem State.setPower_dio (v : Power) : (s.setPower v).dio = s.dio := rfl
@[simp] theorem State.setPower_q (v : Power) : (s.setPower v).q = s.q := rfl
@[simp] theorem State.setPower_trace (v : Power) : (s.setPower v).trace = s.trace := rfl
@[simp] theorem State.setPower_returned (v : Power) : (s.setPower v).returned = s.returned := rfl
@[simp] theorem State.setPower_requests (v : Power) : (s.setPower v).requests = s.requests := rfl

/-! `setBright` -/

@[simp] theorem State.setBright_params (v : BitVec 3) : (s.setBright v).params = s.params := rfl
@[simp] theorem State.setBright_seg (v : BitVec 3) : (s.setBright v).seg = s.seg := rfl
@[simp] theorem State.setBright_pwr (v : BitVec 3) : (s.setBright v).pwr = s.pwr := rfl
@[simp] theorem State.setBright_bright (v : BitVec 3) : (s.setBright v).bright = v := rfl
@[simp] theorem State.setBright_clk (v : BitVec 3) : (s.setBright v).clk = s.clk := rfl
@[simp] theorem State.setBright_dio (v : BitVec 3) : (s.setBright v).dio = s.dio := rfl
@[simp] theorem State.setBright_q (v : BitVec 3) : (s.setBright v).q = s.q := rfl
@[simp] theorem State.setBright_trace (v : BitVec 3) : (s.setBright v).trace = s.trace := rfl
@[simp] theorem State.setBright_returned (v : BitVec 3) : (s.setBright v).returned = s.returned := rfl
@[simp] theorem State.setBright_requests (v : BitVec 3) : (s.setBright v).requests = s.requests := rfl

/-! `allocateSeg` -/

@[simp] theorem State.allocateSeg_params : (s.allocateSeg).params = s.params := rfl
@[simp] theorem State.allocateSeg_seg : (s.allocateSeg).seg = List.replicate s.params.n 0x00#8 := rfl
@[simp] theorem State.allocateSeg_pwr : (s.allocateSeg).pwr = s.pwr := rfl
@[simp] theorem State.allocateSeg_bright : (s.allocateSeg).bright = s.bright := rfl
@[simp] theorem State.allocateSeg_clk : (s.allocateSeg).clk = s.clk := rfl
@[simp] theorem State.allocateSeg_dio : (s.allocateSeg).dio = s.dio := rfl
@[simp] theorem State.allocateSeg_q : (s.allocateSeg).q = s.q := rfl
@[simp] theorem State.allocateSeg_trace : (s.allocateSeg).trace = s.trace := rfl
@[simp] theorem State.allocateSeg_returned : (s.allocateSeg).returned = s.returned := rfl
@[simp] theorem State.allocateSeg_requests : (s.allocateSeg).requests = s.requests := rfl

/-! `returnByte` -/

@[simp] theorem State.returnByte_params (b : Byte) : (s.returnByte b).params = s.params := rfl
@[simp] theorem State.returnByte_seg (b : Byte) : (s.returnByte b).seg = s.seg := rfl
@[simp] theorem State.returnByte_pwr (b : Byte) : (s.returnByte b).pwr = s.pwr := rfl
@[simp] theorem State.returnByte_bright (b : Byte) : (s.returnByte b).bright = s.bright := rfl
@[simp] theorem State.returnByte_clk (b : Byte) : (s.returnByte b).clk = s.clk := rfl
@[simp] theorem State.returnByte_dio (b : Byte) : (s.returnByte b).dio = s.dio := rfl
@[simp] theorem State.returnByte_q (b : Byte) : (s.returnByte b).q = s.q := rfl
@[simp] theorem State.returnByte_trace (b : Byte) : (s.returnByte b).trace = s.trace := rfl
@[simp] theorem State.returnByte_returned (b : Byte) : (s.returnByte b).returned = s.returned ++ [b] := rfl
@[simp] theorem State.returnByte_requests (b : Byte) : (s.returnByte b).requests = s.requests := rfl

/-! `drain` -/

@[simp] theorem State.drain_params : (s.drain).params = s.params := rfl
@[simp] theorem State.drain_seg : (s.drain).seg = s.seg := rfl
@[simp] theorem State.drain_pwr : (s.drain).pwr = s.pwr := rfl
@[simp] theorem State.drain_bright : (s.drain).bright = s.bright := rfl
@[simp] theorem State.drain_clk : (s.drain).clk = latchAfter .clk s.q s.clk := rfl
@[simp] theorem State.drain_dio : (s.drain).dio = latchAfter .dio s.q s.dio := rfl
@[simp] theorem State.drain_q : (s.drain).q = [] := rfl
@[simp] theorem State.drain_trace : (s.drain).trace = s.trace ++ s.q := rfl
@[simp] theorem State.drain_returned : (s.drain).returned = s.returned := rfl
@[simp] theorem State.drain_requests : (s.drain).requests = s.requests := rfl

/-! `pinWrite` -/

@[simp] theorem State.pinWrite_c_params (v : Level) : (s.pinWrite (.c v)).params = s.params := rfl
@[simp] theorem State.pinWrite_d_params (v : Level) : (s.pinWrite (.d v)).params = s.params := rfl
@[simp] theorem State.pinWrite_c_seg (v : Level) : (s.pinWrite (.c v)).seg = s.seg := rfl
@[simp] theorem State.pinWrite_d_seg (v : Level) : (s.pinWrite (.d v)).seg = s.seg := rfl
@[simp] theorem State.pinWrite_c_pwr (v : Level) : (s.pinWrite (.c v)).pwr = s.pwr := rfl
@[simp] theorem State.pinWrite_d_pwr (v : Level) : (s.pinWrite (.d v)).pwr = s.pwr := rfl
@[simp] theorem State.pinWrite_c_bright (v : Level) : (s.pinWrite (.c v)).bright = s.bright := rfl
@[simp] theorem State.pinWrite_d_bright (v : Level) : (s.pinWrite (.d v)).bright = s.bright := rfl
@[simp] theorem State.pinWrite_c_clk (v : Level) : (s.pinWrite (.c v)).clk = some v := rfl
@[simp] theorem State.pinWrite_d_clk (v : Level) : (s.pinWrite (.d v)).clk = s.clk := rfl
@[simp] theorem State.pinWrite_c_dio (v : Level) : (s.pinWrite (.c v)).dio = s.dio := rfl
@[simp] theorem State.pinWrite_d_dio (v : Level) : (s.pinWrite (.d v)).dio = some v := rfl
@[simp] theorem State.pinWrite_c_q (v : Level) : (s.pinWrite (.c v)).q = s.q := rfl
@[simp] theorem State.pinWrite_d_q (v : Level) : (s.pinWrite (.d v)).q = s.q := rfl
@[simp] theorem State.pinWrite_c_trace (v : Level) : (s.pinWrite (.c v)).trace = s.trace ++ [.c v] := rfl
@[simp] theorem State.pinWrite_d_trace (v : Level) : (s.pinWrite (.d v)).trace = s.trace ++ [.d v] := rfl
@[simp] theorem State.pinWrite_c_returned (v : Level) : (s.pinWrite (.c v)).returned = s.returned := rfl
@[simp] theorem State.pinWrite_d_returned (v : Level) : (s.pinWrite (.d v)).returned = s.returned := rfl
@[simp] theorem State.pinWrite_c_requests (v : Level) : (s.pinWrite (.c v)).requests = s.requests := rfl
@[simp] theorem State.pinWrite_d_requests (v : Level) : (s.pinWrite (.d v)).requests = s.requests := rfl

/-! Views computed from the fields. -/

@[simp] theorem State.busy_iff : s.busy = true ↔ s.q ≠ [] := by
  cases h : s.q <;> simp [State.busy, h]

@[simp] theorem State.busy_false_iff : s.busy = false ↔ s.q = [] := by
  cases h : s.q <;> simp [State.busy, h]

@[simp] theorem State.control_emit (es : List Event) : (s.emit es).control = s.control := rfl
@[simp] theorem State.control_writeSeg (i : Nat) (b : Byte) : (s.writeSeg i b).control = s.control := rfl
@[simp] theorem State.control_allocateSeg : s.allocateSeg.control = s.control := rfl
@[simp] theorem State.control_drain : s.drain.control = s.control := rfl
@[simp] theorem State.control_setPower (v : Power) : (s.setPower v).control = controlByte v s.bright := rfl
@[simp] theorem State.control_setBright (v : BitVec 3) : (s.setBright v).control = controlByte s.pwr v := rfl

@[simp] theorem State.segAt_emit (es : List Event) (i : Nat) : (s.emit es).segAt i = s.segAt i := rfl

@[simp] theorem State.emit_emit (es fs : List Event) : (s.emit es).emit fs = s.emit (es ++ fs) := by
  simp [State.emit]

@[simp] theorem State.emit_nil : s.emit [] = s := by
  simp [State.emit]

/-- A register write and a pin write do not meet: they can be done in either order (C8). -/
theorem State.writeSeg_emit (i : Nat) (b : Byte) (es : List Event) :
    (s.emit es).writeSeg i b = (s.writeSeg i b).emit es := rfl

end Sys2Proof.Machine
end

