-- ==== Sys2Proof/Laws/Wire.lean ====
section
/-! SUPPORT. What the event lists of Machine/Wire.lean are: their lengths, and the levels they leave the lines at. -/

namespace Sys2Proof.Machine

namespace Wire

/-- A byte on the wire, event by event (R73). -/
theorem byte_eq (b : Byte) :
    byte b =
      [.d (b.getLsbD 0), .c true, .c false, .d (b.getLsbD 1), .c true, .c false,
       .d (b.getLsbD 2), .c true, .c false, .d (b.getLsbD 3), .c true, .c false,
       .d (b.getLsbD 4), .c true, .c false, .d (b.getLsbD 5), .c true, .c false,
       .d (b.getLsbD 6), .c true, .c false, .d (b.getLsbD 7), .c true, .c false,
       .c true, .c false] := by
  rfl

@[simp] theorem start_length : start.length = 2 := rfl
@[simp] theorem stop_length : stop.length = 3 := rfl
@[simp] theorem byte_length (b : Byte) : (byte b).length = 26 := rfl

@[simp] theorem frame_length (bs : List Byte) : (frame bs).length = 5 + 26 * bs.length := by
  simp [frame]; omega

theorem frame_append (bs : List Byte) : start ++ (bs.flatMap byte ++ stop) = frame bs := by
  simp [frame]

@[simp] theorem frames_nil : frames [] = [] := rfl

@[simp] theorem frames_cons (f : List Byte) (fs : List (List Byte)) : frames (f :: fs) = frame f ++ frames fs := rfl

@[simp] theorem frames_append (fs gs : List (List Byte)) : frames (fs ++ gs) = frames fs ++ frames gs := by
  simp [frames]

/-- The groups of one more position come last: ascending order (R100). -/
theorem datGroups_succ (n : Nat) (data : Nat → Byte) (ctrl : Byte) :
    datGroups (n + 1) data ctrl = datGroups n data ctrl ++ datFrames n (data n) ctrl := by
  simp [datGroups, List.range_succ]

@[simp] theorem datFrames_length (p : Nat) (data ctrl : Byte) : (datFrames p data ctrl).length = 3 := rfl

@[simp] theorem frames_datFrames_length (p : Nat) (data ctrl : Byte) :
    (frames (datFrames p data ctrl)).length = 119 := by
  simp [datFrames]

theorem frames_datGroups_length (n : Nat) (data : Nat → Byte) (ctrl : Byte) :
    (frames (datGroups n data ctrl)).length = 119 * n := by
  induction n with
  | zero => rfl
  | succ n ih => simp [datGroups_succ, ih]; omega

end Wire

/-! The levels after a list of events. -/

@[simp] theorem latchAfter_nil (l : Line) (v : Option Level) : latchAfter l [] v = v := rfl

@[simp] theorem latchAfter_cons (l : Line) (e : Event) (es : List Event) (v : Option Level) :
    latchAfter l (e :: es) v = latchAfter l es (if e.line = l then some e.level else v) := rfl

@[simp] theorem latchAfter_append (l : Line) (es fs : List Event) (v : Option Level) :
    latchAfter l (es ++ fs) v = latchAfter l fs (latchAfter l es v) := by
  simp [latchAfter]

@[simp] theorem latchAfter_start (l : Line) (v : Option Level) : latchAfter l Wire.start v = some false := by
  cases l <;> rfl

@[simp] theorem latchAfter_stop (l : Line) (v : Option Level) : latchAfter l Wire.stop v = some true := by
  cases l <;> rfl

@[simp] theorem latchAfter_byte_clk (b : Byte) (v : Option Level) :
    latchAfter .clk (Wire.byte b) v = some false := by
  rfl

@[simp] theorem latchAfter_byte_dio (b : Byte) (v : Option Level) :
    latchAfter .dio (Wire.byte b) v = some (b.getLsbD 7) := by
  rfl

@[simp] theorem latchAfter_frame (l : Line) (bs : List Byte) (v : Option Level) :
    latchAfter l (Wire.frame bs) v = some true := by
  simp [Wire.frame]

/-- After one frame or more both lines are high: the idle bus (R75). -/
theorem latchAfter_frames (l : Line) (f : List Byte) (fs : List (List Byte)) (v : Option Level) :
    latchAfter l (Wire.frames (f :: fs)) v = some true := by
  induction fs generalizing f v with
  | nil => simp
  | cons g gs ih => rw [Wire.frames_cons, latchAfter_append]; exact ih g _

end Sys2Proof.Machine
end

