-- ==== Sys2Proof/Laws/Ops.lean ====
section
/-! SUPPORT. One lemma for each shared operation and each pseudocode: everything it does, said once, so that proofs cite it
and do not unfold it. -/

namespace Sys2Proof.Machine

/-! The wire operations are frames. -/

theorem opDatacmd_eq (s : State) : opDatacmd s = s.emit (Wire.frame [Wire.dataCommand]) := by
  simp [opDatacmd, opStop, opDataByte, opWritebyte, opStart, Wire.frame]

theorem opAddrdata_eq (pos : Nat) (data : Byte) (s : State) :
    opAddrdata pos data s = s.emit (Wire.frame [Wire.addressByte (position s.params pos), data]) := by
  simp [opAddrdata, opStop, opAddressByte, opWritebyte, opStart, Wire.frame]

theorem opDispctrl_eq (s : State) : opDispctrl s = s.emit (Wire.frame [s.control]) := by
  simp [opDispctrl, opStop, opControlByte, opWritebyte, opStart, Wire.frame, State.control]

theorem opDat_eq (pos : Nat) (data : Byte) (s : State) :
    opDat pos data s = s.emit (Wire.frames (Wire.datFrames (position s.params pos) data s.control)) := by
  simp [opDat, opDatacmd_eq, opAddrdata_eq, opDispctrl_eq, Wire.datFrames]

/-! The display operations on one position. -/

@[simp] theorem position_position (p : Params) (pos : Nat) : position p (position p pos) = position p pos := by
  simp [position]

theorem position_of_lt {p : Params} {i : Nat} (h : i < p.n) : position p i = i :=
  Nat.mod_eq_of_lt h

theorem opShowsegment_eq (pos : Nat) (b : Byte) (s : State) :
    opShowsegment pos b s =
      (s.writeSeg (position s.params pos) b).emit
        (Wire.frames (Wire.datFrames (position s.params pos) b s.control)) := by
  simp [opShowsegment, opDat_eq]

/-- A digit is shown as its pattern is (R103, R105). -/
theorem opShowdigit_eq_showsegment (value pos : Nat) (s : State) :
    opShowdigit value pos s = opShowsegment pos (segmentPattern value) s := rfl

theorem opOn_eq (s : State) :
    opOn s = (s.setPower .on).emit (Wire.frames [[Wire.dataCommand], [controlByte .on s.bright]]) := by
  simp [opOn, opDatacmd_eq, opDispctrl_eq]

theorem opOff_eq (s : State) :
    opOff s = (s.setPower .off).emit (Wire.frames [[Wire.dataCommand], [controlByte .off s.bright]]) := by
  simp [opOff, opDatacmd_eq, opDispctrl_eq]

/-! The operations on every position. -/

/-- A loop that shows a byte at each of the first `n` positions: the bytes stored, the groups sent in ascending order. -/
theorem forPositions_showsegment (data : Nat → Byte) (n : Nat) (s : State) (h : n ≤ s.params.n) :
    forPositions n (fun i => opShowsegment i (data i)) s =
      { s with
        seg := (List.range n).foldl (fun m i => m.set i (data i)) s.seg
        q := s.q ++ Wire.frames (Wire.datGroups n data s.control) } := by
  induction n with
  | zero => simp [forPositions, Wire.datGroups]
  | succ n ih =>
    have hp : position s.params n = n := position_of_lt (by omega)
    simp [forPositions, ih (by omega), opShowsegment_eq, hp, State.emit, State.writeSeg, Wire.datGroups_succ,
      List.range_succ, State.control]

/-- Storing a byte at every index of a list of `n` entries leaves exactly those bytes. -/
theorem set_each_eq_map (data : Nat → Byte) (n : Nat) (m : Memory) (h : m.length = n) :
    (List.range n).foldl (fun m i => m.set i (data i)) m = (List.range n).map data := by
  have key : ∀ k ≤ n,
      (List.range k).foldl (fun m i => m.set i (data i)) m = (List.range k).map data ++ m.drop k := by
    intro k
    induction k with
    | zero => simp
    | succ k ih =>
      intro hk
      rw [List.range_succ, List.foldl_append, ih (by omega)]
      have hd : m.drop k = m[k] :: m.drop (k + 1) := List.drop_eq_getElem_cons (by omega)
      rw [hd, List.foldl_cons, List.foldl_nil, List.set_append_right _ _ (by simp)]
      simp only [List.length_map, List.length_range, Nat.sub_self, List.set_cons_zero]
      simp
  rw [key n le_rfl, List.drop_eq_nil_of_le (by omega), List.append_nil]

/-- Every position shown once, in a segment buffer of its one size (R100, R104, R106, R111). -/
theorem forAll_showsegment (data : Nat → Byte) (s : State) (h : s.seg.length = s.params.n) :
    forPositions s.params.n (fun i => opShowsegment i (data i)) s =
      { s with
        seg := (List.range s.params.n).map data
        q := s.q ++ Wire.frames (Wire.datGroups s.params.n data s.control) } := by
  rw [forPositions_showsegment data _ s le_rfl, set_each_eq_map data _ _ h]

/-- Two loops are the same if their bodies agree on every state with the parameters of the first and every position
visited. -/
theorem forPositions_congr {f g : Nat → State → State} (s : State) (n : Nat)
    (hg : ∀ i t, (g i t).params = t.params)
    (h : ∀ i < n, ∀ t : State, t.params = s.params → f i t = g i t) :
    forPositions n f s = forPositions n g s ∧ (forPositions n g s).params = s.params := by
  induction n with
  | zero => simp [forPositions]
  | succ n ih =>
    obtain ⟨e, hp⟩ := ih (fun i hi t ht => h i (by omega) t ht)
    simp [forPositions, e, h n (by omega) _ hp, hg, hp]

/-- `CLEAR` shows `0x00` at every position (R66, R111). -/
theorem opClear_eq_showsegments (s : State) :
    opClear s = forPositions s.params.n (fun i => opShowsegment i 0x00#8) s := by
  refine (forPositions_congr s _ (fun i t => by simp [opShowsegment_eq]) fun i hi t ht => ?_).1
  have : position t.params i = i := position_of_lt (ht ▸ hi)
  simp [opShowsegment, this]

/-- The byte `SHOWDIGITARRAY` shows at position `i` (R104). -/
def arrayPattern (values : List Nat) (i : Nat) : Byte :=
  match arrayDigit values i with
  | some v => segmentPattern v
  | none => 0x00#8

theorem opArrayDigit_eq (values : List Nat) (i : Nat) (s : State) :
    opArrayDigit values i s = opShowsegment i (arrayPattern values i) s := by
  unfold opArrayDigit arrayPattern
  cases arrayDigit values i <;> rfl

/-! Each pseudocode of the display family, as one change of the state. -/

/-- `CLEAR`, whatever the size of the buffer it finds (R111). -/
theorem opClear_eq (s : State) :
    opClear s =
      { s with
        seg := (List.range s.params.n).foldl (fun m i => m.set i 0x00#8) s.seg
        q := s.q ++ Wire.frames (Wire.datGroups s.params.n (fun _ => 0x00#8) s.control) } := by
  rw [opClear_eq_showsegments]
  exact forPositions_showsegment _ _ s le_rfl

/-- `CLEAR` in a buffer of its one size leaves zero everywhere (R111). -/
theorem opClear_sized (s : State) (h : Memory.wf s.params.n s.seg = true) :
    opClear s =
      { s with
        seg := List.replicate s.params.n 0x00#8
        q := s.q ++ Wire.frames (Wire.datGroups s.params.n (fun _ => 0x00#8) s.control) } := by
  rw [opClear_eq, set_each_eq_map _ _ _ (by simpa [Memory.wf] using h)]
  simp [List.map_const']

/-- `INIT` (R101): what it finds in the registers is gone. -/
theorem opInit_eq (s : State) :
    opInit s =
      { s with
        seg := List.replicate s.params.n 0x00#8
        pwr := .on
        bright := initBrightness s.params
        q := s.q ++ Wire.initTrace s.params.n (controlByte .on (initBrightness s.params)) } := by
  rw [opInit, opClear_sized _ (by simp [Memory.wf])]
  simp [State.emit, State.setPower, State.setBright, State.allocateSeg, Wire.initTrace, State.control]

/-- `INTENSITY` (R102), both ways. -/
theorem opIntensity_eq (level : Int) (s : State) :
    opIntensity level s =
      if level < 1 then opOff s
      else
        { s with
          pwr := .on
          bright := brightnessOf level
          q := s.q ++ Wire.frames
            ((if s.params.intensityDataCmd then [[Wire.dataCommand]] else [])
              ++ [[controlByte .on (brightnessOf level)]]) } := by
  unfold opIntensity
  split
  · rfl
  · simp only [opIntensityData, opDispctrl_eq, opDatacmd_eq]
    cases hd : s.params.intensityDataCmd <;>
      simp [hd, State.emit, State.setPower, State.setBright, State.control]

/-- `SHOWDIGITARRAY` (R104): `blankPos` is nowhere on the right. -/
theorem opShowdigitarray_eq (values : List Nat) (blankPos : Nat) (s : State) :
    opShowdigitarray values blankPos s =
      { s with
        seg := (List.range s.params.n).foldl (fun m i => m.set i (arrayPattern values i)) s.seg
        q := s.q ++ Wire.frames (Wire.datGroups s.params.n (arrayPattern values) s.control) } := by
  have h : opArrayDigit values = fun i => opShowsegment i (arrayPattern values i) := by
    funext i t
    exact opArrayDigit_eq values i t
  rw [opShowdigitarray, h]
  exact forPositions_showsegment _ _ s le_rfl

/-- The loop of `SHOWSEGMENTARRAY` (R106). -/
theorem opShowsegmentarray_eq (bytes : List Byte) (s : State) :
    opShowsegmentarray bytes s =
      { s with
        seg := (List.range s.params.n).foldl (fun m i => m.set i (arrayByte bytes i)) s.seg
        q := s.q ++ Wire.frames (Wire.datGroups s.params.n (arrayByte bytes) s.control) } :=
  forPositions_showsegment _ _ s le_rfl

/-- A loop of `SHOWDIGIT` over a list of positions, the head first (R108). -/
theorem forOrder_showdigit (digit : Nat → Nat) (order : List Nat) (s : State) :
    forOrder order (fun k => opShowdigit (digit k) k) s =
      { s with
        seg := order.foldl (fun m k => m.set (position s.params k) (segmentPattern (digit k))) s.seg
        q := s.q ++ Wire.frames (order.flatMap fun k =>
          Wire.datFrames (position s.params k) (segmentPattern (digit k)) s.control) } := by
  induction order generalizing s with
  | nil => simp [forOrder]
  | cons k order ih =>
    rw [forOrder, ih]
    simp [opShowdigit_eq_showsegment, opShowsegment_eq, State.emit, State.writeSeg, State.control]

/-- `SHOWHEX` (R108). -/
theorem opShowhex_eq (value : BitVec 16) (s : State) :
    opShowhex value s =
      { s with
        seg := s.params.hexOrder.foldl
          (fun m k => m.set (position s.params k) (segmentPattern (nibble value k))) s.seg
        q := s.q ++ Wire.frames (s.params.hexOrder.flatMap fun k =>
          Wire.datFrames (position s.params k) (segmentPattern (nibble value k)) s.control) } :=
  forOrder_showdigit (nibble value) _ s

/-- `TOGGLEDP` (R110), with and without the write-back. -/
theorem opToggledp_eq (pos : Nat) (shown : Bool) (s : State) :
    opToggledp pos shown s =
      { s with
        seg := if s.params.dpWriteback then
            s.seg.set (position s.params pos) (withPoint shown (s.segAt (position s.params pos)))
          else s.seg
        q := s.q ++ Wire.frames (Wire.datFrames (position s.params pos)
          (withPoint shown (s.segAt (position s.params pos))) s.control) } := by
  simp only [opToggledp, opPointWriteback, opDat_eq]
  cases s.params.dpWriteback <;> simp [State.emit, State.writeSeg, State.control]

/-! Acceptance. -/

/-- An accepting block performs the operation. -/
theorem accept_of_accepting {s : State} (body : State → State) (hv : s.params.valid = true) (hq : s.q = []) :
    accept s body = .next (body s) := by
  have hb : s.busy = false := by simpa using hq
  simp [accept, hv, hb]

/-- Everything `accept` can do. -/
theorem accept_cases (s : State) (body : State → State) :
    (s.params.valid = true ∧ s.q = [] ∧ accept s body = .next (body s))
      ∨ (s.params.valid = true ∧ s.q ≠ [] ∧ accept s body = .refused .busy)
      ∨ (s.params.valid = false ∧ accept s body = .refused .badConfiguration) := by
  cases hv : s.params.valid with
  | false => simp [accept, hv]
  | true =>
    cases hb : s.busy with
    | false => simp [accept, hv, hb, (State.busy_false_iff s).1 hb]
    | true => simp [accept, hv, hb, (State.busy_iff s).1 hb]

/-- If `accept` answers a next state, it is the body's, and the block was ready for it. -/
theorem accept_next {s t : State} {body : State → State} (h : accept s body = .next t) :
    s.params.valid = true ∧ s.q = [] ∧ t = body s := by
  rcases accept_cases s body with ⟨hv, hq, e⟩ | ⟨_, _, e⟩ | ⟨_, e⟩
  · rw [e] at h; injection h with h; exact ⟨hv, hq, h.symm⟩
  · rw [e] at h; cases h
  · rw [e] at h; cases h

/-! The segment buffer keeps its one form. -/

theorem Memory.wf_iff (n : Nat) (m : Memory) : Memory.wf n m = true ↔ m.length = n := by
  simp [Memory.wf]

theorem writeSeg_keeps_wf (s : State) (i : Nat) (b : Byte) (h : Memory.wf s.params.n s.seg = true) :
    Memory.wf (s.writeSeg i b).params.n (s.writeSeg i b).seg = true := by
  simpa [Memory.wf] using h

theorem allocateSeg_wf (s : State) : Memory.wf s.allocateSeg.params.n s.allocateSeg.seg = true := by
  simp [Memory.wf]

theorem resetWith_wf (p : Params) : Memory.wf (State.resetWith p).params.n (State.resetWith p).seg = true := by
  simp [Memory.wf, State.resetWith]

theorem reset_memory_wf : Memory.wf State.reset.params.n State.reset.seg = true :=
  resetWith_wf _

/-! Draining. -/

/-- Delivering one pending event and then the rest is delivering all of them (R20). -/
theorem drain_cons (s : State) (e : Event) (rest : List Event) (h : s.q = e :: rest) :
    s.drain = (State.pinWrite { s with q := rest } e).drain := by
  rcases e with ⟨l, v⟩
  cases l <;> simp [State.drain, State.pinWrite, h]

theorem drain_of_idle (s : State) (h : s.q = []) : s.drain = s := by
  rcases s
  simp_all [State.drain]

end Sys2Proof.Machine
end

