-- ==== Sys2Proof/Laws/Exec.lean ====
section
/-! SUPPORT. What exec and step can do, said once: exec is the acceptance of one body, and step is one of four things. -/

namespace Sys2Proof.Machine

/-- The pseudocode of each operation: the register writes it makes and the events it queues. -/
def body : Instr → State → State
  | .init => opInit
  | .start => opStart
  | .stop => opStop
  | .writebyte b => opWritebyte b
  | .datacmd => opDatacmd
  | .addrdata pos data => opAddrdata pos data
  | .dispctrl => opDispctrl
  | .dat pos data => opDat pos data
  | .enc value => opEnc value
  | .intensity level => opIntensity level
  | .showdigit value pos => opShowdigit value pos
  | .showdigitarray values blankPos => opShowdigitarray values blankPos
  | .showsegment pos rawByte => opShowsegment pos rawByte
  | .showsegmentarray bytes => opShowsegmentarray bytes
  | .showhex value => opShowhex value
  | .toggledp pos shown => opToggledp pos shown
  | .clear => opClear
  | .on => opOn
  | .off => opOff
  | .wireData => opDataByte
  | .wireAddr a => opAddressByte a.toNat
  | .wireCtrl p b => opControlByte (if p then .on else .off) b

/-- The operation is the one the spec refuses: a `SHOWSEGMENTARRAY` list longer than `N` (R106). -/
def overlong (p : Params) : Instr → Prop
  | .showsegmentarray bytes => p.n < bytes.length
  | _ => False

/-- Outside that refusal, exec is the acceptance of the operation's body. -/
theorem exec_eq_accept (i : Instr) (s : State) (h : ¬overlong s.params i) : exec i s = accept s (body i) := by
  cases i with
  | showsegmentarray bytes => simp only [overlong] at h; simp [exec, execShowsegmentarray, body, h]
  | _ => rfl

theorem exec_overlong (s : State) (bytes : List Byte) (h : s.params.n < bytes.length) :
    exec (.showsegmentarray bytes) s = .refused .overlongList := by
  simp [exec, execShowsegmentarray, h]

/-- If exec answers a next state, the block was accepting and the state is the body's. -/
theorem exec_next {i : Instr} {s t : State} (h : exec i s = .next t) :
    s.params.valid = true ∧ s.q = [] ∧ t = body i s := by
  by_cases ho : overlong s.params i
  · cases i with
    | showsegmentarray bytes => rw [exec_overlong s bytes ho] at h; cases h
    | _ => cases ho
  · rw [exec_eq_accept i s ho] at h
    exact accept_next h

/-- Everything a step can answer as a next state: one pin write, one accepted operation, or nothing. -/
theorem step_next {s t : State} (h : step s = .next t) :
    s.params.valid = true
    ∧ ((∃ e rest, s.q = e :: rest ∧ t = State.pinWrite { s with q := rest } e)
      ∨ (s.q = [] ∧ ∃ r rs i, s.requests = r :: rs ∧ decode s.params r = .ok i
          ∧ exec i { s with requests := rs } = .next t)
      ∨ (s.q = [] ∧ s.requests = [] ∧ t = s)) := by
  cases hv : s.params.valid with
  | false => simp [step, sequencerStep, hv] at h
  | true =>
    refine ⟨rfl, ?_⟩
    cases hq : s.q with
    | cons e rest =>
      simp only [step, sequencerStep, hv, hq, if_true] at h
      injection h with h
      exact .inl ⟨e, rest, rfl, h.symm⟩
    | nil =>
      cases hr : s.requests with
      | nil =>
        simp only [step, sequencerStep, hv, hq, hr, if_true] at h
        injection h with h
        exact .inr (.inr ⟨rfl, rfl, h.symm⟩)
      | cons r rs =>
        simp only [step, sequencerStep, hv, hq, hr, if_true, present] at h
        cases hd : decode s.params r with
        | ok i => rw [hd] at h; exact .inr (.inl ⟨rfl, r, rs, i, rfl, hd, h⟩)
        | error e => rw [hd] at h; cases h

/-- Reset in any block with parameters in their domains, busy or not (R127, R140). -/
theorem hostReset_next (s : State) (h : s.params.valid = true) :
    hostReset s = .next { State.resetWith s.params with requests := s.requests } := by
  simp [hostReset, h]

end Sys2Proof.Machine
end

