-- ==== Sys2Proof/Laws/PerInstr.lean ====
section
/-! SUPPORT. Statements for all instructions, one lemma per constructor. The family TableMatch holds the encoder against
spec/opcode_table.json: the word of each encoded operation is its row's match under its row's mask. -/

namespace Sys2Proof.Laws

/-- The opcode-table word of a request: the selector, or the wire byte. -/
def wordOf : Request → Nat
  | .opsel5 opsel _ => opsel.toNat
  | .wire8 b => b.toNat

/-- The "match" and "mask" of each operation's row in spec/opcode_table.json, copied from the table. -/
def tableRow : Instr → Nat × Nat
  | .init => (0x00, 0x1F)
  | .start => (0x01, 0x1F)
  | .stop => (0x02, 0x1F)
  | .writebyte _ => (0x03, 0x1F)
  | .datacmd => (0x04, 0x1F)
  | .addrdata _ _ => (0x05, 0x1F)
  | .dispctrl => (0x06, 0x1F)
  | .dat _ _ => (0x07, 0x1F)
  | .enc _ => (0x08, 0x1F)
  | .intensity _ => (0x09, 0x1F)
  | .showdigit _ _ => (0x0A, 0x1F)
  | .showdigitarray _ _ => (0x0B, 0x1F)
  | .showsegment _ _ => (0x0C, 0x1F)
  | .showsegmentarray _ => (0x0D, 0x1F)
  | .showhex _ => (0x0E, 0x1F)
  | .toggledp _ _ => (0x0F, 0x1F)
  | .clear => (0x10, 0x1F)
  | .on => (0x11, 0x1F)
  | .off => (0x12, 0x1F)
  | .wireData => (0x40, 0xFF)
  | .wireAddr _ => (0xC0, 0xFC)
  | .wireCtrl _ _ => (0x80, 0xF0)

/-- The encoded operation's word is its row's match under its row's mask, for this hardware's `N = 4`. -/
def TableMatch.Statement (i : Instr) : Prop :=
  i.wellFormed Config.hardware = true → wordOf (encode i) &&& (tableRow i).2 = (tableRow i).1

theorem TableMatch.init : TableMatch.Statement .init := fun _ => by decide
theorem TableMatch.start : TableMatch.Statement .start := fun _ => by decide
theorem TableMatch.stop : TableMatch.Statement .stop := fun _ => by decide
theorem TableMatch.writebyte (b : Byte) : TableMatch.Statement (.writebyte b) := by
  intro _; simp [wordOf, encode, tableRow]
theorem TableMatch.datacmd : TableMatch.Statement .datacmd := fun _ => by decide
theorem TableMatch.addrdata (pos : Nat) (data : Byte) : TableMatch.Statement (.addrdata pos data) := by
  intro _; simp [wordOf, encode, tableRow]
theorem TableMatch.dispctrl : TableMatch.Statement .dispctrl := fun _ => by decide
theorem TableMatch.dat (pos : Nat) (data : Byte) : TableMatch.Statement (.dat pos data) := by
  intro _; simp [wordOf, encode, tableRow]
theorem TableMatch.enc (value : Nat) : TableMatch.Statement (.enc value) := by
  intro _; simp [wordOf, encode, tableRow]
theorem TableMatch.intensity (level : Int) : TableMatch.Statement (.intensity level) := by
  intro _; simp [wordOf, encode, tableRow]
theorem TableMatch.showdigit (value pos : Nat) : TableMatch.Statement (.showdigit value pos) := by
  intro _; simp [wordOf, encode, tableRow]
theorem TableMatch.showdigitarray (values : List Nat) (blankPos : Nat) :
    TableMatch.Statement (.showdigitarray values blankPos) := by
  intro _; simp [wordOf, encode, tableRow]
theorem TableMatch.showsegment (pos : Nat) (rawByte : Byte) :
    TableMatch.Statement (.showsegment pos rawByte) := by
  intro _; simp [wordOf, encode, tableRow]
theorem TableMatch.showsegmentarray (bytes : List Byte) :
    TableMatch.Statement (.showsegmentarray bytes) := by
  intro _; simp [wordOf, encode, tableRow]
theorem TableMatch.showhex (value : BitVec 16) : TableMatch.Statement (.showhex value) := by
  intro _; simp [wordOf, encode, tableRow]
theorem TableMatch.toggledp (pos : Nat) (shown : Bool) : TableMatch.Statement (.toggledp pos shown) := by
  intro _; simp [wordOf, encode, tableRow]
theorem TableMatch.clear : TableMatch.Statement .clear := fun _ => by decide
theorem TableMatch.on : TableMatch.Statement .on := fun _ => by decide
theorem TableMatch.off : TableMatch.Statement .off := fun _ => by decide
theorem TableMatch.wireData : TableMatch.Statement .wireData := fun _ => by decide

theorem TableMatch.wireAddr (a : BitVec 6) : TableMatch.Statement (.wireAddr a) := by
  have key : ∀ a : BitVec 6, a.toNat < 4 → (3#2 ++ a).toNat &&& 0xFC = 0xC0 := by decide
  intro h
  exact key a (of_decide_eq_true h)

theorem TableMatch.wireCtrl (p : Bool) (b : BitVec 3) : TableMatch.Statement (.wireCtrl p b) := by
  have key : ∀ (p : Bool) (b : BitVec 3), (8#4 ++ BitVec.ofBool p ++ b).toNat &&& 0xF0 = 0x80 := by decide
  intro _
  exact key p b

end Sys2Proof.Laws
end

