-- ==== Sys2Proof/Laws/Receiver.lean ====
section
/-! SUPPORT. How the reader of R47 walks a trace: events one by one, a trace in two parts, and a byte inside a frame. -/

namespace Sys2Proof.Machine

@[simp] theorem Receiver.read_nil (r : Receiver) : r.read [] = r := rfl

theorem Receiver.read_cons (r : Receiver) (e : Event) (es : List Event) :
    r.read (e :: es) = (r.onEvent e).read es := rfl

theorem Receiver.read_append (r : Receiver) (es fs : List Event) : r.read (es ++ fs) = (r.read es).read fs := by
  simp [Receiver.read]

/-- A data write while the clock is low is no edge. -/
theorem Receiver.onEvent_data_clock_low (r : Receiver) (v : Level) (h : r.clk = some false) :
    r.onEvent (.d v) = { r with dio := some v } := by
  cases v <;> simp [Receiver.onEvent, Event.d, h]

/-- The clock rising from low samples. -/
theorem Receiver.onEvent_clock_rises (r : Receiver) (h : r.clk = some false) :
    r.onEvent (.c true) = { r.sample with clk := some true } := by
  simp [Receiver.onEvent, Event.c, h]

theorem Receiver.onEvent_clock_falls (r : Receiver) : r.onEvent (.c false) = { r with clk := some false } := rfl

/-- Eight bits, least significant first, are the byte they came from (R35). -/
theorem byteOfBits_bitsOf (b : Byte) : byteOfBits (Wire.bitsOf b) = b := by
  revert b
  decide

/-- A byte sent inside an open frame is read whole, and its ACK slot ends the group (R47, R73). -/
theorem Receiver.read_byte (b : Byte) (d : Option Level) (bytes : List Byte) (frames : List (List Byte)) :
    Receiver.read ⟨some false, d, true, [], bytes, frames⟩ (Wire.byte b) =
      ⟨some false, some (b.getLsbD 7), true, [], bytes ++ [b], frames⟩ := by
  have e : byteOfBits [b.getLsbD 0, b.getLsbD 1, b.getLsbD 2, b.getLsbD 3, b.getLsbD 4, b.getLsbD 5,
      b.getLsbD 6, b.getLsbD 7] = b := byteOfBits_bitsOf b
  simp only [BitVec.getLsbD_eq_getElem, Nat.reduceLT] at e
  rw [Wire.byte_eq]
  simp [Receiver.read_cons, Receiver.onEvent_data_clock_low, Receiver.onEvent_clock_rises,
    Receiver.onEvent_clock_falls, Receiver.sample, e]

end Sys2Proof.Machine
end

