-- ==== Sys2Proof/Laws/Run.lean ====
section
/-! SUPPORT. Running the machine of Host/Core.lean: one lemma per outcome of a step, and two runs in a row. -/

namespace Sys2Proof.Machine

/-- A run whose first step answers a next state goes on from it. -/
theorem hostRun_next (M : Host.Core) {k : Nat} {s t : M.State} (h : M.step s = .next t) :
    M.run (k + 1) s = M.run k t := by
  rw [Host.Core.run.eq_def]
  simp [h]

/-- A run whose first step is refused is refused. -/
theorem hostRun_refused (M : Host.Core) {k : Nat} {s : M.State} {r : M.Refusal} (h : M.step s = .refused r) :
    M.run (k + 1) s = .refused r := by
  rw [Host.Core.run.eq_def]
  simp [h]

/-- A run of `j + k` steps whose first `j` answer a next state goes on from it. -/
theorem hostRun_add (M : Host.Core) {j k : Nat} {s t : M.State} (h : M.run j s = .next t) :
    M.run (j + k) s = M.run k t := by
  induction j generalizing s with
  | zero => rw [Host.Core.run.eq_def] at h; injection h with h; simp [h]
  | succ j ih =>
    rw [Nat.succ_add]
    cases hs : M.step s with
    | next u => rw [hostRun_next M hs] at h ⊢; exact ih h
    | fault f => rw [Host.Core.run.eq_def] at h; simp [hs] at h
    | refused r => rw [hostRun_refused M hs] at h; cases h

theorem run_zero (s : State) : Host.Core.run Sys2Proof.core 0 s = .next s := rfl

theorem run_next {k : Nat} {s t : State} (h : step s = .next t) :
    Host.Core.run Sys2Proof.core (k + 1) s = Host.Core.run Sys2Proof.core k t :=
  hostRun_next Sys2Proof.core h

theorem run_refused {k : Nat} {s : State} {r : Refusal} (h : step s = .refused r) :
    Host.Core.run Sys2Proof.core (k + 1) s = .refused r :=
  hostRun_refused Sys2Proof.core h

theorem run_add {j k : Nat} {s t : State} (h : Host.Core.run Sys2Proof.core j s = .next t) :
    Host.Core.run Sys2Proof.core (j + k) s = Host.Core.run Sys2Proof.core k t :=
  hostRun_add Sys2Proof.core h

end Sys2Proof.Machine
end

