-- ==== Sys2Proof/Tests/Slice0.lean ====
section
/-! SUPPORT. The model's own tests: ill-formed operations refused, words written out from the spec's encodings, one step on
the spec's own examples S1 to S13 and vectors V1 to V54, and a witness for the hypotheses of each obligation. -/

namespace Sys2Proof.Tests

open Sys2Proof.Machine

/-! ## A small block to test on -/

/-- READY (R23, second column) with the past trace forgotten; the registers and parameters are those given. -/
def block (p : Params) (seg : Memory) (pwr : Power) (bright : BitVec 3) : State :=
  { params := p, seg := seg, pwr := pwr, bright := bright, clk := some true, dio := some true, q := [], trace := [],
    returned := [], requests := [] }

/-- READY of this hardware. -/
def ready : State := block Config.hardware [0x00#8, 0x00#8, 0x00#8, 0x00#8] .on 6#3

/-- Off, with brightness 2: the state several vectors start from. -/
def dimmed : State := block Config.hardware [0x4F#8, 0x07#8, 0x00#8, 0x00#8] .off 2#3

/-- READY with one request to come. -/
def asked (r : Request) : State := { ready with requests := [r] }

/-- A block in the middle of `START`. -/
def midStart : State := { ready with dio := some false, q := [.c false], trace := [.d false] }

/-- A block built with a parameter outside its domain (R4). -/
def misbuilt : State := block { Config.hardware with n := 0 } [] .on 6#3

/-- The parameters with one position, the smallest of R4. -/
def single : Params := { Config.hardware with n := 1 }

/-- The next state of an outcome. -/
def nextOf (o : Host.Outcome State Fault Refusal) : Option State :=
  match o with
  | .next t => some t
  | .fault _ => none
  | .refused _ => none

/-- The refusal of an outcome. -/
def refusalOf (o : Host.Outcome State Fault Refusal) : Option Refusal :=
  match o with
  | .next _ => none
  | .fault _ => none
  | .refused r => some r

/-- The pin writes of an operation. -/
def eventsOf (i : Instr) (s : State) : Option (List Event) :=
  (nextOf (exec i s)).map State.q

/-- The registers after an operation. -/
def registersOf (i : Instr) (s : State) : Option (Memory × Power × BitVec 3) :=
  (nextOf (exec i s)).map fun t => (t.seg, t.pwr, t.bright)

/-- The frames a receiver on an idle bus reads from an operation (R47). -/
def framesOf (i : Instr) (s : State) : Option (List (List Byte)) :=
  (nextOf (exec i s)).map fun t => framesRead (some true) (some true) t.q

/-! ## Well-formedness -/

theorem test_wellFormed_refuses_five_bytes :
    (Instr.showsegmentarray [0x01#8, 0x02#8, 0x03#8, 0x04#8, 0x05#8]).wellFormed Config.hardware = false := by decide

theorem test_wellFormed_takes_four_bytes :
    (Instr.showsegmentarray [0x01#8, 0x02#8, 0x03#8, 0x04#8]).wellFormed Config.hardware = true := by decide

theorem test_wellFormed_refuses_address_four : (Instr.wireAddr 4#6).wellFormed Config.hardware = false := by decide

theorem test_wellFormed_takes_address_three : (Instr.wireAddr 3#6).wellFormed Config.hardware = true := by decide

/-! ## Decoding (R53 to R55, R62 to R64), each word written from the spec's tables -/

theorem test_decode_transport :
    decode Config.hardware (.opsel5 0b00001#5 []) = .ok .start
    ∧ decode Config.hardware (.opsel5 0b00010#5 []) = .ok .stop
    ∧ decode Config.hardware (.opsel5 0b00011#5 [.byte 0xA5#8]) = .ok (.writebyte 0xA5#8) := by
  exact ⟨rfl, rfl, rfl⟩

theorem test_decode_command_layer :
    decode Config.hardware (.opsel5 0b00100#5 []) = .ok .datacmd
    ∧ decode Config.hardware (.opsel5 0b00101#5 [.nat 5, .byte 0x12#8]) = .ok (.addrdata 5 0x12#8)
    ∧ decode Config.hardware (.opsel5 0b00110#5 []) = .ok .dispctrl
    ∧ decode Config.hardware (.opsel5 0b00111#5 [.nat 1, .byte 0x4F#8]) = .ok (.dat 1 0x4F#8)
    ∧ decode Config.hardware (.opsel5 0b01000#5 [.nat 26]) = .ok (.enc 26) := by
  exact ⟨rfl, rfl, rfl, rfl, rfl⟩

theorem test_decode_display :
    decode Config.hardware (.opsel5 0b00000#5 []) = .ok .init
    ∧ decode Config.hardware (.opsel5 0b01001#5 [.int (-5)]) = .ok (.intensity (-5))
    ∧ decode Config.hardware (.opsel5 0b01010#5 [.nat 26, .nat 7]) = .ok (.showdigit 26 7)
    ∧ decode Config.hardware (.opsel5 0b01011#5 [.nats [3, 7], .nat 2]) = .ok (.showdigitarray [3, 7] 2)
    ∧ decode Config.hardware (.opsel5 0b01100#5 [.nat 6, .byte 0xFF#8]) = .ok (.showsegment 6 0xFF#8)
    ∧ decode Config.hardware (.opsel5 0b01101#5 [.bytes [0xFF#8]]) = .ok (.showsegmentarray [0xFF#8]) := by
  exact ⟨rfl, rfl, rfl, rfl, rfl, rfl⟩

theorem test_decode_display_rest :
    decode Config.hardware (.opsel5 0b01110#5 [.hex 0x1A2F#16]) = .ok (.showhex 0x1A2F#16)
    ∧ decode Config.hardware (.opsel5 0b01111#5 [.nat 5, .flag true]) = .ok (.toggledp 5 true)
    ∧ decode Config.hardware (.opsel5 0b10000#5 []) = .ok .clear
    ∧ decode Config.hardware (.opsel5 0b10001#5 []) = .ok .on
    ∧ decode Config.hardware (.opsel5 0b10010#5 []) = .ok .off := by
  exact ⟨rfl, rfl, rfl, rfl, rfl⟩

theorem test_decode_wire_bytes :
    decode Config.hardware (.wire8 0b01000000#8) = .ok .wireData
    ∧ decode Config.hardware (.wire8 0b11000010#8) = .ok (.wireAddr 2#6)
    ∧ decode Config.hardware (.wire8 0b10001110#8) = .ok (.wireCtrl true 6#3)
    ∧ decode Config.hardware (.wire8 0b10000000#8) = .ok (.wireCtrl false 0#3) := by
  exact ⟨rfl, rfl, rfl, rfl⟩

theorem test_decode_refuses :
    decode Config.hardware (.opsel5 0b10011#5 []) = .error (.reservedSelector 0x13#5)
    ∧ decode Config.hardware (.opsel5 0b11111#5 []) = .error (.reservedSelector 0x1F#5)
    ∧ decode Config.hardware (.opsel5 0b00011#5 []) = .error (.operandTypes 0x03#5)
    ∧ decode Config.hardware (.wire8 0b11000100#8) = .error (.noCommandByte 0xC4#8)
    ∧ decode Config.hardware (.wire8 0b01000001#8) = .error (.noCommandByte 0x41#8)
    ∧ decode Config.hardware (.wire8 0b10010000#8) = .error (.noCommandByte 0x90#8) := by
  exact ⟨rfl, rfl, rfl, rfl, rfl, rfl⟩

/-- Every row's word runs as the first operation after reset. -/
theorem test_placed_word_runs_after_reset :
    ([0x00, 0x01, 0x02, 0x03, 0x04, 0x05, 0x06, 0x07, 0x08, 0x09, 0x0A, 0x0B, 0x0C, 0x0D, 0x0E, 0x0F, 0x10, 0x11, 0x12,
      0x40, 0xC0, 0x80].all fun w => (nextOf (step (State.reset.withFetchWord 8 w))).isSome) = true := by decide

/-- R127: a reset in the middle of `START` drops its last event, and the trace restarts with `INIT` (`C0 D0`, then
`START`). -/
theorem test_hostReset_mid_operation :
    (nextOf (hostReset midStart)).map (fun t => (t.trace, t.q.take 4))
      = some ([], [.c false, .d false, .d false, .c false]) := by decide

/-! ## Transport (V1 to V8) -/

theorem test_start : eventsOf .start ready = some [.d false, .c false] := by decide

theorem test_stop : eventsOf .stop ready = some [.d false, .c true, .d true] := by decide

/-- V7: `0xA5` is sent as 1,0,1,0,0,1,0,1. -/
theorem test_writebyte_A5 : eventsOf (.writebyte 0xA5#8) ready = some
    [.d true, .c true, .c false, .d false, .c true, .c false, .d true, .c true, .c false, .d false, .c true, .c false,
     .d false, .c true, .c false, .d true, .c true, .c false, .d false, .c true, .c false, .d true, .c true, .c false,
     .c true, .c false] := by decide

/-- V5: bit 0 is first. -/
theorem test_writebyte_01_first_bit :
    (eventsOf (.writebyte 0x01#8) ready).map (List.take 4) = some [.d true, .c true, .c false, .d false] := by decide

/-! ## Command layer (V9 to V17) -/

theorem test_datacmd : framesOf .datacmd ready = some [[0x40#8]] := by decide

theorem test_addrdata_wraps : framesOf (.addrdata 5 0x12#8) ready = some [[0xC1#8, 0x12#8]] := by decide

theorem test_dispctrl_on : framesOf .dispctrl ready = some [[0x8E#8]] := by decide

theorem test_dispctrl_off : framesOf .dispctrl dimmed = some [[0x82#8]] := by decide

theorem test_dat : framesOf (.dat 1 0x4F#8) ready = some [[0x40#8], [0xC1#8, 0x4F#8], [0x8E#8]] := by decide +kernel

theorem test_dat_leaves_registers :
    registersOf (.dat 1 0x4F#8) ready = some ([0x00#8, 0x00#8, 0x00#8, 0x00#8], .on, 6#3) := by decide

/-! ## Digit table (S2) -/

theorem test_enc_wraps : (nextOf (exec (.enc 26) ready)).map State.returned = some [0x77#8] := by decide

theorem test_enc_emits_nothing : eventsOf (.enc 15) ready = some [] := by decide

/-! ## Display operations (S4 to S11, V20 to V48) -/

/-- V27. -/
theorem test_intensity_frames : framesOf (.intensity 3) dimmed = some [[0x8A#8]] := by decide

/-- V24 and S7. -/
theorem test_intensity_zero_is_off :
    registersOf (.intensity 0) ready = some ([0x00#8, 0x00#8, 0x00#8, 0x00#8], .off, 6#3) := by decide

/-- V26: `INTENSITY_DATA_CMD` true. -/
theorem test_intensity_data_command :
    framesOf (.intensity 1) (block { Config.hardware with intensityDataCmd := true } [] .on 6#3)
      = some [[0x40#8], [0x88#8]] := by decide

/-- S8. -/
theorem test_intensity_clamps :
    registersOf (.intensity 100) ready = some ([0x00#8, 0x00#8, 0x00#8, 0x00#8], .on, 7#3) := by decide

/-- S4. -/
theorem test_showdigit_frames :
    framesOf (.showdigit 26 7) ready = some [[0x40#8], [0xC3#8, 0x77#8], [0x8E#8]] := by decide +kernel

theorem test_showdigit_registers :
    registersOf (.showdigit 26 7) ready = some ([0x00#8, 0x00#8, 0x00#8, 0x77#8], .on, 6#3) := by decide

/-- V34. -/
theorem test_showsegment_frames :
    framesOf (.showsegment 6 0xFF#8) dimmed = some [[0x40#8], [0xC2#8, 0xFF#8], [0x82#8]] := by decide +kernel

theorem test_showsegment_registers :
    registersOf (.showsegment 6 0xFF#8) dimmed = some ([0x4F#8, 0x07#8, 0xFF#8, 0x00#8], .off, 2#3) := by decide

/-- V36. -/
theorem test_showdigitarray_registers :
    registersOf (.showdigitarray [16, 10, 9, 0, 5] 0) ready = some ([0x00#8, 0x00#8, 0x6F#8, 0x3F#8], .on, 6#3) := by
  decide

/-- S9. -/
theorem test_showdigitarray_frames :
    framesOf (.showdigitarray [3, 7] 0) ready = some
      [[0x40#8], [0xC0#8, 0x4F#8], [0x8E#8], [0x40#8], [0xC1#8, 0x07#8], [0x8E#8],
       [0x40#8], [0xC2#8, 0x00#8], [0x8E#8], [0x40#8], [0xC3#8, 0x00#8], [0x8E#8]] := by decide +kernel

/-- S11. -/
theorem test_showsegmentarray_frames :
    framesOf (.showsegmentarray [0x25#8, 0x06#8, 0x27#8, 0x18#8]) ready = some
      [[0x40#8], [0xC0#8, 0x25#8], [0x8E#8], [0x40#8], [0xC1#8, 0x06#8], [0x8E#8],
       [0x40#8], [0xC2#8, 0x27#8], [0x8E#8], [0x40#8], [0xC3#8, 0x18#8], [0x8E#8]] := by decide +kernel

/-- V40. -/
theorem test_showsegmentarray_refuses :
    refusalOf (exec (.showsegmentarray [0x01#8, 0x02#8, 0x03#8, 0x04#8, 0x05#8]) ready) = some .overlongList := by decide

/-- S10 with `HEX_ORDER = (0,3,2,1)`. -/
theorem test_showhex_order :
    framesOf (.showhex 0x1A2F#16)
        (block { Config.hardware with hexOrder := [0, 3, 2, 1] } [0x00#8, 0x00#8, 0x00#8, 0x00#8] .on 6#3) = some
      [[0x40#8], [0xC0#8, 0x06#8], [0x8E#8], [0x40#8], [0xC3#8, 0x71#8], [0x8E#8],
       [0x40#8], [0xC2#8, 0x5B#8], [0x8E#8], [0x40#8], [0xC1#8, 0x77#8], [0x8E#8]] := by decide +kernel

/-- V51: two positions, the later write wins. -/
theorem test_showhex_wraps :
    registersOf (.showhex 0x1A2F#16) (block { Config.hardware with n := 2 } [0x00#8, 0x00#8] .on 6#3)
      = some ([0x5B#8, 0x71#8], .on, 6#3) := by decide

/-- V46. -/
theorem test_toggledp_sets :
    registersOf (.toggledp 5 true) (block Config.hardware [0x4F#8, 0x07#8, 0x00#8, 0x00#8] .on 6#3)
      = some ([0x4F#8, 0x87#8, 0x00#8, 0x00#8], .on, 6#3) := by decide

/-- S5 with `DP_WRITEBACK` false: the frame has the point, the buffer has not. -/
theorem test_toggledp_without_writeback :
    (nextOf (exec (.toggledp 1 true)
        (block { Config.hardware with n := 2, dpWriteback := false } [0x27#8, 0x27#8] .on 6#3))).map
        (fun t => (t.seg, framesRead (some true) (some true) t.q))
      = some ([0x27#8, 0x27#8], [[0x40#8], [0xC1#8, 0xA7#8], [0x8E#8]]) := by decide +kernel

/-- V47. -/
theorem test_clear_registers :
    registersOf .clear dimmed = some ([0x00#8, 0x00#8, 0x00#8, 0x00#8], .off, 2#3) := by decide

theorem test_clear_frames :
    framesOf .clear (block { Config.hardware with n := 2 } [0x06#8, 0x77#8] .off 2#3) = some
      [[0x40#8], [0xC0#8, 0x00#8], [0x82#8], [0x40#8], [0xC1#8, 0x00#8], [0x82#8]] := by decide +kernel

/-- V28. -/
theorem test_on_frames : framesOf .on dimmed = some [[0x40#8], [0x8A#8]] := by decide

theorem test_on_registers :
    registersOf .on dimmed = some ([0x4F#8, 0x07#8, 0x00#8, 0x00#8], .on, 2#3) := by decide

/-- V29. -/
theorem test_off_frames : framesOf .off ready = some [[0x40#8], [0x86#8]] := by decide

theorem test_off_registers :
    registersOf .off ready = some ([0x00#8, 0x00#8, 0x00#8, 0x00#8], .off, 6#3) := by decide

/-- V50: with two positions `INIT` is 240 events. -/
theorem test_init_events :
    (eventsOf .init (block { Config.hardware with n := 2 } [0x11#8, 0x22#8] .off 0#3)).map
      (fun es => (es.length, es.take 4)) = some (240, [.c false, .d false, .d false, .c false]) := by decide +kernel

/-- V54: `INIT_LEVEL` 8. -/
theorem test_init_registers :
    registersOf .init (block { Config.hardware with initLevel := 8 } [0x11#8, 0x22#8, 0x33#8, 0x44#8] .off 0#3)
      = some ([0x00#8, 0x00#8, 0x00#8, 0x00#8], .on, 7#3) := by decide

/-! ## Wire bytes (V8, R54, R55) -/

theorem test_wireData_is_writebyte_40 : eventsOf .wireData ready = eventsOf (.writebyte 0x40#8) ready := by decide

theorem test_wireAddr_is_writebyte_C2 :
    eventsOf (.wireAddr 2#6) ready = eventsOf (.writebyte 0xC2#8) ready := by decide

theorem test_wireCtrl_is_writebyte_8E :
    eventsOf (.wireCtrl true 6#3) ready = eventsOf (.writebyte 0x8E#8) ready := by decide

/-! ## Witnesses: for each obligation with hypotheses, data that meets all of them together -/

/-- The whole of R4's domain at its corners. -/
theorem witness_valid_parameters :
    Config.hardware.valid = true ∧ single.valid = true
    ∧ { single with n := 64, initLevel := 8, hexOrder := [3, 2, 1, 0] }.valid = true
    ∧ { single with n := 65 }.valid = false ∧ { single with n := 0 }.valid = false := by decide

theorem witness_StepRunsTheDecodedRequest :
    (Accepting (asked (encode .off)) ∧ (asked (encode .off)).requests = [encode .off]
      ∧ decode (asked (encode .off)).params (encode .off) = .ok .off)
    ∧ (Accepting (asked (.wire8 0xC4#8)) ∧ decode Config.hardware (.wire8 0xC4#8) = .error (.noCommandByte 0xC4#8)) := by
  exact ⟨⟨by decide, rfl, rfl⟩, by decide, rfl⟩

theorem witness_BusyStepEmitsTheNextEvent :
    midStart.params.valid = true ∧ midStart.q = .c false :: [] ∧ { midStart with q := [.d true] }.q = .d true :: [] := by
  decide

theorem witness_IdleStepChangesNothing : Accepting ready ∧ RunOver ready := by decide

theorem witness_PlacedWordRunsNext :
    midStart.params.valid = true ∧ decode midStart.params (requestOfWord 0x12) = .ok .off
    ∧ decode midStart.params (requestOfWord 0x40) = .ok .wireData := by exact ⟨by decide, rfl, rfl⟩

theorem witness_ResetIsTheAcceptanceOfInit : Config.hardware.valid = true ∧ single.valid = true := by decide

theorem witness_ResetRunsToReady : Config.hardware.valid = true ∧ single.valid = true := by decide

theorem witness_HostResetRestartsWithInit :
    ready.params.valid = true ∧ (midStart.params.valid = true ∧ midStart.q ≠ []) ∧ misbuilt.params.valid = false := by decide

theorem witness_StartForcesBothLinesLow : Accepting ready := by decide

theorem witness_StopLeavesTheIdleBus : Accepting ready := by decide

theorem witness_WritebyteSendsLeastSignificantFirst : Accepting ready := by decide

theorem witness_DatacmdSendsItsFixedFrame : Accepting ready := by decide

theorem witness_AddrdataSendsAddressThenData : Accepting ready := by decide

theorem witness_DispctrlSendsPowerAndBrightness : Accepting ready ∧ Accepting dimmed := by decide

theorem witness_DatWrapsOneDigitWrite : Accepting ready := by decide

theorem witness_LowerLayersWriteNoRegister :
    tierB (.dat 1 0x4F#8) = false ∧ (nextOf (exec (.dat 1 0x4F#8) ready)).isSome = true
    ∧ tierB (.wireAddr 63#6) = false ∧ (nextOf (exec (.wireAddr 63#6) ready)).isSome = true := by decide

theorem witness_WireRowsSendTheirByte :
    Accepting ready ∧ (3#6).toNat < ready.params.n ∧ ¬ (4#6).toNat < ready.params.n := by
  decide

theorem witness_EncReturnsTheTableByte : Accepting ready := by decide

theorem witness_DigitTableProperties : 15 < 16 ∧ segmentPattern 15 = segmentPattern 15 := by decide

theorem witness_InitClearsEveryPosition : Accepting dimmed := by decide

/-- The clauses at their boundary levels: 1 and 8, 0, 9. -/
theorem witness_IntensityClampsAndShifts :
    (Accepting ready ∧ (1 : Int) ≤ 1 ∧ (1 : Int) ≤ 8) ∧ (0 : Int) < 1 ∧ (8 : Int) < 9 := by decide

theorem witness_ShowdigitStoresAndSendsThePattern : Accepting ready ∧ SegSized ready := by decide

theorem witness_ShowsegmentStoresAndSendsTheRawByte : Accepting ready ∧ SegSized ready := by decide

/-- `SHOWDIGITARRAY [9, 10]`: a digit, a value that is none, and two missing entries. -/
theorem witness_ShowdigitarrayShowsDigitsAndBlanks :
    Accepting ready ∧ SegSized ready
    ∧ (∀ i v, [9, 10][i]? = some v → v ≤ 9 → (if i = 0 then 0x6F#8 else 0x00#8) = lut.getD v 0x00#8)
    ∧ (∀ i v, [9, 10][i]? = some v → 9 < v → (if i = 0 then 0x6F#8 else 0x00#8) = 0x00#8)
    ∧ (∀ i, [9, 10].length ≤ i → (if i = 0 then 0x6F#8 else 0x00#8) = 0x00#8) := by
  refine ⟨by decide, by decide, ?_, ?_, ?_⟩
  · intro i v h hv
    match i, h with
    | 0, h => cases h; decide
    | 1, h => cases h; omega
    | n + 2, h => simp at h
  · intro i v h hv
    match i, h with
    | 0, h => cases h; omega
    | 1, h => rfl
    | n + 2, h => simp at h
  · intro i h
    rw [if_neg]
    simp at h
    omega

/-- The clauses at their boundary lengths: none, `N`, and `N + 1`. -/
theorem witness_ShowsegmentarrayPadsOrRefuses :
    Accepting ready ∧ SegSized ready ∧ ([] : List Byte).length ≤ ready.params.n
    ∧ [0x01#8, 0x02#8, 0x03#8, 0x04#8].length ≤ ready.params.n
    ∧ ready.params.n < [0x01#8, 0x02#8, 0x03#8, 0x04#8, 0x05#8].length := by decide

/-- `SHOWHEX 0x1A2F` (S10). -/
theorem witness_ShowhexWritesFourNibbles :
    ∃ glyph : Nat → Byte, Accepting ready
    ∧ glyph 0 = lut.getD ((0x1A2F#16).toNat / 4096) 0x00#8
    ∧ glyph 1 = lut.getD ((0x1A2F#16).toNat / 256 % 16) 0x00#8
    ∧ glyph 2 = lut.getD ((0x1A2F#16).toNat / 16 % 16) 0x00#8
    ∧ glyph 3 = lut.getD ((0x1A2F#16).toNat % 16) 0x00#8 :=
  ⟨fun k => [0x06#8, 0x77#8, 0x5B#8, 0x71#8].getD k 0x00#8, by decide⟩

theorem witness_HexOrderPermutesGroupsOnly :
    Accepting ready ∧ SegSized ready ∧ 4 ≤ ready.params.n ∧ [0, 3, 2, 1].isPerm [0, 1, 2, 3] = true := by decide

/-- The last position and one that wraps. -/
theorem witness_ToggledpSetsOrClearsThePoint :
    Accepting ready ∧ ready.seg[3 % ready.params.n]? = some 0x00#8 ∧ ready.seg[4 % ready.params.n]? = some 0x00#8 := by
  decide

theorem witness_PointAfterSegmentIsIdempotent :
    SegSized ready ∧ ∃ t, perform (.showsegment 2 0x27#8) ready = .next t := by exact ⟨by decide, _, rfl⟩

theorem witness_WritebackIsInvisibleOnTheWire :
    (∃ t, exec (.toggledp 1 true) ready = .next t)
    ∧ AgreeBelowPoint ready.seg [0x80#8, 0x00#8, 0x80#8, 0x00#8] := by exact ⟨⟨_, rfl⟩, rfl⟩

theorem witness_ClearBlanksEveryPosition : Accepting dimmed ∧ SegSized dimmed := by decide

theorem witness_OnKeepsBrightnessAndBuffer : Accepting dimmed := by decide

theorem witness_OffKeepsBrightnessAndBuffer : Accepting ready := by decide

theorem witness_FramedOperationsLeaveTheIdleBus :
    1 ≤ ready.params.n ∧ (tierB .on = true ∧ ∃ t, perform .on ready = .next t)
    ∧ (commandLayer .dispctrl = true ∧ ∃ t, perform .dispctrl ready = .next t) := by
  exact ⟨by decide, ⟨rfl, _, rfl⟩, rfl, _, rfl⟩

/-- `ON` from off changes `PWR`; `INTENSITY 1` changes `BRIGHT` (its boundary level). -/
theorem witness_ControlRegisterWriters :
    (nextOf (exec .on dimmed)).map State.pwr = some .on ∧ dimmed.pwr = .off
    ∧ (nextOf (exec (.intensity 1) dimmed)).map State.bright = some 0#3 ∧ dimmed.bright = 2#3 := by decide

theorem witness_SegmentBufferWriters :
    SegSized dimmed ∧ (nextOf (exec .clear dimmed)).map State.seg ≠ some dimmed.seg
    ∧ (nextOf (exec (.toggledp 0 true) dimmed)).map State.seg ≠ some dimmed.seg
    ∧ dimmed.params.dpWriteback = true := by decide

theorem witness_AcceptanceFrame : ∃ t, exec .on ready = .next t ∧ ∀ v, Instr.on ≠ .enc v :=
  ⟨_, rfl, fun _ h => by cases h⟩

theorem witness_LineLevelsAreNeverRead : ∃ t, exec (.writebyte 0xA5#8) ready = .next t := ⟨_, rfl⟩

theorem witness_EveryOperationCompletes : Accepting ready ∧ Accepting dimmed := by decide

/-- One state for each clause, and the lists at the boundary length `N` and above it. -/
theorem witness_BusyOrMisconfiguredBlockRefuses :
    (midStart.params.valid = true ∧ midStart.q ≠ [] ∧ [0x01#8, 0x02#8, 0x03#8, 0x04#8].length ≤ midStart.params.n)
    ∧ misbuilt.params.valid = false
    ∧ midStart.params.n < [0x01#8, 0x02#8, 0x03#8, 0x04#8, 0x05#8].length := by decide

theorem witness_EventFrameAndEdgeCounts :
    (∃ t, exec .init ready = .next t) ∧ (∃ t, exec .off ready = .next t) ∧ tierB .off = true ∧ (∃ t, exec .datacmd ready = .next t)
    ∧ commandLayer .datacmd = true := by exact ⟨⟨_, rfl⟩, ⟨_, rfl⟩, rfl, ⟨_, rfl⟩, rfl⟩

theorem witness_StepKeepsSafe : Safe midStart ∧ ∃ t, step midStart = .next t := by exact ⟨by decide, _, rfl⟩

theorem witness_ResetIsSafe : Config.hardware.valid = true := by decide

theorem witness_StepKeepsEventsInOrder :
    (∃ t, step midStart = .next t) ∧ ∃ t, step (asked (encode .on)) = .next t := by exact ⟨⟨_, rfl⟩, _, rfl⟩

theorem witness_QueueDrainsInItsLength : midStart.params.valid = true ∧ midStart.q.length = 1 := by decide

theorem witness_StepsRefineBigSteps :
    Accepting ready ∧ ready.requests = [] ∧ (∃ t, performAll [encode .on, encode .start] ready = .next t)
    ∧ ∃ e, performAll [encode .on, .opsel5 0x13#5 []] ready = .refused e := by
  exact ⟨by decide, rfl, ⟨_, rfl⟩, _, rfl⟩

theorem witness_ReadBackWhenIdleOnly :
    (SegSized ready ∧ ready.q = [] ∧ 3 < ready.params.n) ∧ SegSized midStart ∧ midStart.q ≠ [] := by decide

theorem witness_SegmentArrayRoundTrip :
    Accepting ready ∧ SegSized ready ∧ [0x25#8, 0x06#8, 0x27#8, 0x18#8].length = ready.params.n := by decide

theorem witness_ReceiverReadsExactlyTheFrames :
    (Receiver.fresh (some true) (some true)).clk = some true ∧ (Receiver.fresh (some true) (some true)).dio = some true
    ∧ (Receiver.fresh (some true) (some true)).inFrame = false := by decide

theorem witness_FirstFrameAfterResetIsNotRead : 1 ≤ single.n := by decide

/-- A block of one position, fresh from reset, about to be asked `OFF`. -/
theorem witness_StepKeepsTheMirror :
    Mirrored { State.readyWith single with requests := [encode .off] }
    ∧ ∃ t, step { State.readyWith single with requests := [encode .off] } = .next t := by
  refine ⟨⟨by decide, rfl, ?_, by decide +kernel, by decide +kernel, by decide +kernel, by decide +kernel,
    by decide +kernel⟩, _, rfl⟩
  intro r hr i hi
  cases List.mem_singleton.mp hr
  cases hi
  rfl

theorem witness_ResetIsMirrored : single.valid = true ∧ single.dpWriteback = true := by decide

theorem witness_DecodeAndEncodeAgree :
    (Instr.wireAddr 3#6).wellFormed Config.hardware = true
    ∧ decode Config.hardware (.wire8 0xC3#8) = .ok (.wireAddr 3#6) := by exact ⟨by decide, rfl⟩

/-- The first and the last reserved selector. -/
theorem witness_ReservedSelectorsAreRefused :
    0x13 ≤ (0x13#5).toNat ∧ 0x13 ≤ (0x1F#5).toNat ∧ Accepting (asked (.opsel5 0x13#5 []))
    ∧ (asked (.opsel5 0x13#5 [])).requests = .opsel5 0x13#5 [] :: [] := by decide

end Sys2Proof.Tests
end

/-! # Scope: the invariants of the block and the invisibility of `DP_WRITEBACK` -/

/-! ## What an accepted operation and a pin write leave unchanged -/

namespace Sys2Proof.Machine

/-- An operation completes exactly when it is not the refused list and the block accepts requests; what it leads to is its
body (R20, R125). -/
theorem exec_eq_next_iff {i : Instr} {s t : State} :
    exec i s = .next t ↔ ¬overlong s.params i ∧ Accepting s ∧ t = body i s := by
  constructor
  · intro h
    obtain ⟨hv, hq, rfl⟩ := exec_next h
    refine ⟨fun ho => ?_, ⟨hv, hq⟩, rfl⟩
    cases i with
    | showsegmentarray bytes => rw [exec_overlong s bytes ho] at h; cases h
    | _ => exact ho
  · rintro ⟨ho, ⟨hv, hq⟩, rfl⟩
    rw [exec_eq_accept i s ho, accept_of_accepting _ hv hq]

@[simp] theorem State.pinWrite_params (s : State) (e : Event) : (s.pinWrite e).params = s.params := by
  obtain ⟨_ | _, v⟩ := e <;> rfl

@[simp] theorem State.pinWrite_seg (s : State) (e : Event) : (s.pinWrite e).seg = s.seg := by
  obtain ⟨_ | _, v⟩ := e <;> rfl

/-- No operation writes a parameter (R4). -/
@[simp] theorem body_params (i : Instr) (s : State) : (body i s).params = s.params := by
  cases i with
  | start | stop | writebyte _ | enc _ | wireData | wireAddr _ | wireCtrl _ _ => rfl
  | datacmd | addrdata _ _ | dispctrl | dat _ _ =>
    simp [body, opDatacmd_eq, opAddrdata_eq, opDispctrl_eq, opDat_eq]
  | on | off => simp [body, opOn_eq, opOff_eq]
  | intensity level => simp only [body, opIntensity_eq, opOff_eq]; split <;> rfl
  | showdigit _ _ | showsegment _ _ => simp [body, opShowdigit_eq_showsegment, opShowsegment_eq]
  | init | clear | showdigitarray _ _ | showsegmentarray _ | showhex _ | toggledp _ _ =>
    simp only [body, opInit_eq, opClear_eq, opShowdigitarray_eq, opShowsegmentarray_eq, opShowhex_eq, opToggledp_eq]

/-- Storing bytes one after another keeps the size of the segment buffer. -/
@[simp] theorem length_foldl_set {α : Type} (index : α → Nat) (data : α → Byte) (l : List α) (m : Memory) :
    (l.foldl (fun m x => m.set (index x) (data x)) m).length = m.length := by
  induction l generalizing m with
  | nil => rfl
  | cons x l ih => simp [ih]

/-- Every operation keeps a segment buffer of `N` entries at `N` entries (R11). -/
theorem body_keeps_segSized (i : Instr) (s : State) (h : SegSized s) : SegSized (body i s) := by
  rw [SegSized, Memory.wf_iff] at h ⊢
  rw [body_params]
  cases i with
  | init => simp [body, opInit_eq]
  | start | stop | writebyte _ | enc _ | wireData | wireAddr _ | wireCtrl _ _ => exact h
  | datacmd | addrdata _ _ | dispctrl | dat _ _ =>
    simpa [body, opDatacmd_eq, opAddrdata_eq, opDispctrl_eq, opDat_eq] using h
  | on | off => simpa [body, opOn_eq, opOff_eq] using h
  | intensity level => simp only [body, opIntensity_eq, opOff_eq]; split <;> exact h
  | showdigit _ _ | showsegment _ _ => simpa [body, opShowdigit_eq_showsegment, opShowsegment_eq] using h
  | clear | showdigitarray _ _ | showsegmentarray _ | showhex _ =>
    simpa [body, opClear_eq, opShowdigitarray_eq, opShowsegmentarray_eq, opShowhex_eq] using h
  | toggledp pos shown => simp only [body, opToggledp_eq]; split <;> simpa using h

/-! ## The safe states -/

/-- A completed operation keeps the safe-state invariant (R4, R11). -/
theorem exec_keeps_safe {i : Instr} {s t : State} (hs : Safe s) (h : exec i s = .next t) : Safe t := by
  obtain ⟨_, _, rfl⟩ := exec_next h
  exact ⟨(body_params i s).symm ▸ hs.1, body_keeps_segSized i s hs.2⟩

theorem pinWrite_keeps_safe {s : State} (e : Event) (hs : Safe s) : Safe (s.pinWrite e) := by
  simpa only [Safe, SegSized, State.pinWrite_params, State.pinWrite_seg] using hs

theorem resetWith_safe {p : Params} (hp : p.valid = true) : Safe (State.resetWith p) :=
  ⟨hp, resetWith_wf p⟩

/-! ## Agreement below the decimal point -/

/-- What `TOGGLEDP` makes of a byte does not depend on its bit 7 (R110). -/
theorem withPoint_and (shown : Bool) (b : Byte) : withPoint shown (b &&& 0x7F#8) = withPoint shown b := by
  revert shown b
  decide

/-- What `TOGGLEDP` makes of a byte keeps its bits 6..0 (R110). -/
theorem withPoint_and_below (shown : Bool) (b : Byte) : withPoint shown b &&& 0x7F#8 = b &&& 0x7F#8 := by
  revert shown b
  decide

namespace AgreeBelowPoint

variable {a b c : Memory}

protected theorem symm (h : AgreeBelowPoint a b) : AgreeBelowPoint b a :=
  Eq.symm h

protected theorem trans (h : AgreeBelowPoint a b) (h' : AgreeBelowPoint b c) : AgreeBelowPoint a c :=
  Eq.trans h h'

/-- The same byte stored in both buffers. -/
theorem set (h : AgreeBelowPoint a b) (i : Nat) (v : Byte) : AgreeBelowPoint (a.set i v) (b.set i v) := by
  unfold AgreeBelowPoint at *
  rw [List.map_set, List.map_set, h]

/-- The same bytes stored in both buffers, one after another. -/
theorem foldl_set {α : Type} (index : α → Nat) (data : α → Byte) (l : List α) (h : AgreeBelowPoint a b) :
    AgreeBelowPoint (l.foldl (fun m x => m.set (index x) (data x)) a)
      (l.foldl (fun m x => m.set (index x) (data x)) b) := by
  induction l generalizing a b with
  | nil => exact h
  | cons x l ih => exact ih (h.set (index x) (data x))

/-- `TOGGLEDP` makes the same byte of both buffers, so that it sends the same byte (R110 corner d). -/
theorem withPoint_getD (h : AgreeBelowPoint a b) (shown : Bool) (i : Nat) :
    withPoint shown (a.getD i 0x00#8) = withPoint shown (b.getD i 0x00#8) := by
  have below (m : Memory) : m.getD i 0x00#8 &&& 0x7F#8 = (m.map (· &&& 0x7F#8)).getD i 0x00#8 := by
    cases hm : m[i]? <;> simp [List.getD, hm]
  rw [← withPoint_and shown (a.getD i _), ← withPoint_and shown (b.getD i _), below, below, h]

/-- Whether or not `TOGGLEDP` writes back, it leaves bits 6..0 of every entry (R110). -/
theorem of_writeback (a : Memory) (shown : Bool) (i : Nat) (w : Bool) :
    AgreeBelowPoint a (if w then a.set i (withPoint shown (a.getD i 0x00#8)) else a) := by
  cases w with
  | false => rfl
  | true =>
    by_cases hi : i < a.length
    · have entry : withPoint shown (a.getD i 0x00#8) &&& 0x7F#8 = (a.map (· &&& 0x7F#8))[i]'(by simpa) := by
        simp [withPoint_and_below, List.getD, hi]
      rw [AgreeBelowPoint, if_pos rfl, List.map_set, entry, List.set_getElem_self]
    · simp [AgreeBelowPoint, List.set_eq_of_length_le (by omega : a.length ≤ i)]

end AgreeBelowPoint

/-! ## `DP_WRITEBACK` is invisible on the wire -/

/-- The same block with another segment buffer and another value of `DP_WRITEBACK`. -/
def State.rebuilt (s : State) (m : Memory) (w : Bool) : State :=
  { s with seg := m, params := { s.params with dpWriteback := w } }

@[simp] theorem State.rebuilt_position (s : State) (m : Memory) (w : Bool) (pos : Nat) :
    position (s.rebuilt m w).params pos = position s.params pos := rfl

@[simp] theorem State.rebuilt_segAt (s : State) (m : Memory) (w : Bool) (i : Nat) :
    (s.rebuilt m w).segAt i = m.getD i 0x00#8 := rfl

/-- Whether a block accepts requests does not depend on `DP_WRITEBACK` or `SEG`. -/
theorem State.rebuilt_accepting {s : State} (h : Accepting s) (m : Memory) (w : Bool) : Accepting (s.rebuilt m w) := h

/-- Nor does which list `SHOWSEGMENTARRAY` refuses. -/
theorem State.rebuilt_overlong (s : State) (m : Memory) (w : Bool) (i : Instr) :
    overlong (s.rebuilt m w).params i ↔ overlong s.params i := Iff.rfl

/-- `TOGGLEDP` sends the same byte in both blocks; the buffers differ at most in bit 7 (R110 corner d). -/
theorem toggledp_rebuilt (pos : Nat) (shown : Bool) (s : State) {m : Memory} (w : Bool) (h : AgreeBelowPoint s.seg m) :
    ∃ m', AgreeBelowPoint (opToggledp pos shown s).seg m'
      ∧ opToggledp pos shown (s.rebuilt m w) = (opToggledp pos shown s).rebuilt m' w := by
  have sent : withPoint shown (s.segAt (position s.params pos)) =
      withPoint shown (m.getD (position s.params pos) 0x00#8) := h.withPoint_getD shown _
  have left := AgreeBelowPoint.of_writeback s.seg shown (position s.params pos) s.params.dpWriteback
  have right := AgreeBelowPoint.of_writeback m shown (position s.params pos) w
  refine ⟨(opToggledp pos shown (s.rebuilt m w)).seg, ?_, ?_⟩
  · rw [opToggledp_eq, opToggledp_eq]
    exact (left.symm.trans h).trans right
  · rw [opToggledp_eq, opToggledp_eq, State.rebuilt_segAt, State.rebuilt_position, ← sent]
    rfl

/-- The simulation: an operation's body leads from blocks that differ at most in `DP_WRITEBACK` and in bit 7 of `SEG`
entries to such blocks, and everything else they hold, the queue included, is the same. Only `TOGGLEDP` reads `SEG` or the
parameter. -/
theorem body_rebuilt (i : Instr) (s : State) {m : Memory} (w : Bool) (h : AgreeBelowPoint s.seg m) :
    ∃ m', AgreeBelowPoint (body i s).seg m' ∧ body i (s.rebuilt m w) = (body i s).rebuilt m' w := by
  cases i with
  | toggledp pos shown => exact toggledp_rebuilt pos shown s w h
  | init =>
    simp only [body, opInit_eq]
    exact ⟨_, rfl, rfl⟩
  | intensity level =>
    simp only [body, opIntensity_eq, opOff_eq]
    split <;> exact ⟨m, h, rfl⟩
  | showdigit _ _ | showsegment _ _ =>
    simp only [body, opShowdigit_eq_showsegment, opShowsegment_eq]
    exact ⟨_, h.set _ _, rfl⟩
  | clear | showdigitarray _ _ | showsegmentarray _ | showhex _ =>
    simp only [body, opClear_eq, opShowdigitarray_eq, opShowsegmentarray_eq, opShowhex_eq]
    exact ⟨_, h.foldl_set _ _ _, rfl⟩
  | start | stop | writebyte _ | enc _ | wireData | wireAddr _ | wireCtrl _ _ => exact ⟨m, h, rfl⟩
  | datacmd | addrdata _ _ | dispctrl | dat _ _ | on | off =>
    simp only [body, opDatacmd_eq, opAddrdata_eq, opDispctrl_eq, opDat_eq, opOn_eq, opOff_eq]
    exact ⟨m, h, rfl⟩

end Sys2Proof.Machine

/-! ## The obligations of the scope -/

namespace Sys2Proof.Scope

open Sys2Proof.Machine

/-- Settles O33, by the simulation `body_rebuilt`: both blocks accept the same operations. -/
theorem writebackIsInvisibleOnTheWire : Obligations.WritebackIsInvisibleOnTheWire := by
  intro i s t m w h hm
  obtain ⟨ho, ha, rfl⟩ := exec_eq_next_iff.1 h
  obtain ⟨m', hm', e⟩ := body_rebuilt i s w hm
  exact ⟨m', hm', exec_eq_next_iff.2
    ⟨mt (State.rebuilt_overlong s m w i).1 ho, State.rebuilt_accepting ha m w, e.symm⟩⟩

/-- Settles O46: each of the three things a step can do keeps the invariant. -/
theorem stepKeepsSafe : Obligations.StepKeepsSafe := by
  intro s t hs h
  obtain ⟨_, ⟨e, rest, _, rfl⟩ | ⟨_, r, rs, i, _, _, hi⟩ | ⟨_, _, rfl⟩⟩ := step_next h
  · exact pinWrite_keeps_safe (s := { s with q := rest }) e hs
  · exact exec_keeps_safe (s := { s with requests := rs }) hs hi
  · exact hs

/-- Settles O5. The 478 events are the two that drive the lines low and 119 for each of the four positions (R153). -/
theorem resetReleaseValues : Obligations.ResetReleaseValues := by
  have pending : State.reset.q.length = 478 := by
    simp [State.reset, State.resetWith, Wire.initTrace, Wire.driveLow, Wire.frames_datGroups_length, Config.hardware]
  have busy : State.reset.busy = true := by
    rw [State.busy_iff, ← List.length_pos_iff, pending]
    decide
  exact ⟨rfl, rfl, rfl, rfl, rfl, rfl, rfl, busy, pending, rfl⟩

/-- Settles O47. -/
theorem resetIsSafe : Obligations.ResetIsSafe :=
  ⟨resetWith_safe (by decide), fun _ => resetWith_safe⟩

end Sys2Proof.Scope

/-! # State family: what every operation does, in closed form -/

namespace Sys2Proof.Machine

/-! ## The registers and the pin writes after an operation -/

/-- Bytes stored one after another: for each entry `x` of a list, `data x` at `index x`. -/
def storeEach {α : Type} (index : α → Nat) (data : α → Byte) (l : List α) (m : Memory) : Memory :=
  l.foldl (fun m x => m.set (index x) (data x)) m

/-- `SEG` after an operation, from the parameters and `SEG` before it (R10). -/
@[simp] def segAfter (p : Params) (m : Memory) : Instr → Memory
  | .init => List.replicate p.n 0x00#8
  | .clear => storeEach id (fun _ => 0x00#8) (List.range p.n) m
  | .showdigitarray values _ => storeEach id (arrayPattern values) (List.range p.n) m
  | .showsegmentarray bytes => storeEach id (arrayByte bytes) (List.range p.n) m
  | .showhex value => storeEach (position p) (fun k => segmentPattern (nibble value k)) p.hexOrder m
  | .showdigit value pos => m.set (position p pos) (segmentPattern value)
  | .showsegment pos rawByte => m.set (position p pos) rawByte
  | .toggledp pos shown =>
    if p.dpWriteback then m.set (position p pos) (withPoint shown (m.getD (position p pos) 0x00#8)) else m
  | _ => m

/-- `PWR` after an operation (R13, R117). -/
@[simp] def powerAfter (v : Power) : Instr → Power
  | .init | .on => .on
  | .off => .off
  | .intensity level => if level < 1 then .off else .on
  | _ => v

/-- `BRIGHT` after an operation (R14, R117). -/
@[simp] def brightAfter (p : Params) (b : BitVec 3) : Instr → BitVec 3
  | .init => initBrightness p
  | .intensity level => if level < 1 then b else brightnessOf level
  | _ => b

/-- The pin writes of an operation: `m` is `SEG` before it, `ctrl` the control byte of the registers after it (D20). -/
@[simp] def pinWrites (p : Params) (m : Memory) (ctrl : Byte) : Instr → List Event
  | .init => Wire.initTrace p.n ctrl
  | .start => Wire.start
  | .stop => Wire.stop
  | .writebyte b => Wire.byte b
  | .datacmd => Wire.frames [[Wire.dataCommand]]
  | .addrdata pos data => Wire.frames [[Wire.addressByte (position p pos), data]]
  | .dispctrl => Wire.frames [[ctrl]]
  | .dat pos data => Wire.frames (Wire.datFrames (position p pos) data ctrl)
  | .enc _ => []
  | .intensity level =>
    Wire.frames ((if level < 1 ∨ p.intensityDataCmd = true then [[Wire.dataCommand]] else []) ++ [[ctrl]])
  | .showdigit value pos => Wire.frames (Wire.datFrames (position p pos) (segmentPattern value) ctrl)
  | .showdigitarray values _ => Wire.frames (Wire.datGroups p.n (arrayPattern values) ctrl)
  | .showsegment pos rawByte => Wire.frames (Wire.datFrames (position p pos) rawByte ctrl)
  | .showsegmentarray bytes => Wire.frames (Wire.datGroups p.n (arrayByte bytes) ctrl)
  | .showhex value => Wire.frames (p.hexOrder.flatMap fun k =>
      Wire.datFrames (position p k) (segmentPattern (nibble value k)) ctrl)
  | .toggledp pos shown => Wire.frames (Wire.datFrames (position p pos)
      (withPoint shown (m.getD (position p pos) 0x00#8)) ctrl)
  | .clear => Wire.frames (Wire.datGroups p.n (fun _ => 0x00#8) ctrl)
  | .on | .off => Wire.frames [[Wire.dataCommand], [ctrl]]
  | .wireData => Wire.byte Wire.dataCommand
  | .wireAddr a => Wire.byte (Wire.addressByte (position p a.toNat))
  | .wireCtrl p b => Wire.byte (controlByte (if p then .on else .off) b)

/-- The bytes an operation returns to the host (R91). -/
@[simp] def returnedBy : Instr → List Byte
  | .enc value => [segmentPattern value]
  | _ => []

/-- The control byte after an operation (R58). -/
def controlAfter (s : State) (i : Instr) : Byte :=
  controlByte (powerAfter s.pwr i) (brightAfter s.params s.bright i)

/-- What every operation does, in one equation: the registers, the queue and the returned bytes it leaves, and that it
touches nothing else. -/
theorem body_eq (i : Instr) (s : State) :
    body i s =
      { s with
        seg := segAfter s.params s.seg i
        pwr := powerAfter s.pwr i
        bright := brightAfter s.params s.bright i
        q := s.q ++ pinWrites s.params s.seg (controlAfter s i) i
        returned := s.returned ++ returnedBy i } := by
  cases i with
  | init => simp [body, opInit_eq, controlAfter]
  | start | stop | writebyte _ | wireData | wireAddr _ | wireCtrl _ _ =>
    simp [body, opStart, opStop, opWritebyte, opDataByte, opAddressByte, opControlByte, State.emit]
  | datacmd | addrdata _ _ | dispctrl | dat _ _ =>
    simp [body, opDatacmd_eq, opAddrdata_eq, opDispctrl_eq, opDat_eq, State.emit, State.control, controlAfter]
  | enc _ => simp [body, opEnc, State.returnByte]
  | on | off =>
    simp [body, opOn_eq, opOff_eq, State.emit, State.setPower, controlAfter]
  | intensity level =>
    by_cases h : level < 1 <;>
      simp [body, opIntensity_eq, opOff_eq, State.emit, State.setPower, h, controlAfter]
  | showdigit _ _ | showsegment _ _ =>
    simp [body, opShowdigit_eq_showsegment, opShowsegment_eq, State.emit, State.writeSeg, State.control, controlAfter]
  | clear | showdigitarray _ _ | showsegmentarray _ | showhex _ | toggledp _ _ =>
    simp [body, opClear_eq, opShowdigitarray_eq, opShowsegmentarray_eq, opShowhex_eq, opToggledp_eq, State.segAt,
      State.control, storeEach, controlAfter]

/-- A completed operation, in closed form: an accepting block has nothing queued before it. -/
theorem exec_next_eq {i : Instr} {s t : State} (h : exec i s = .next t) :
    t =
      { s with
        seg := segAfter s.params s.seg i
        pwr := powerAfter s.pwr i
        bright := brightAfter s.params s.bright i
        q := pinWrites s.params s.seg (controlAfter s i) i
        returned := s.returned ++ returnedBy i } := by
  obtain ⟨_, hq, rfl⟩ := exec_next h
  rw [body_eq, hq, List.nil_append]

/-- An operation reads neither the latches nor the trace nor the host's requests, and leaves them as they are: it does the
same in a block with others (R16, R17, R70). -/
theorem exec_surrounded {i : Instr} {s t : State} (h : exec i s = .next t) (c d : Option Level) (es : List Event)
    (rs : List Request) :
    exec i { s with clk := c, dio := d, trace := es, requests := rs } =
      .next { t with clk := c, dio := d, trace := es, requests := rs } := by
  obtain ⟨ho, ha, rfl⟩ := exec_eq_next_iff.1 h
  refine exec_eq_next_iff.2 ⟨ho, ha, ?_⟩
  rw [body_eq, body_eq]
  rfl

/-! ## Which operations write which register -/

theorem powerAfter_ne {v : Power} {i : Instr} (h : powerAfter v i ≠ v) :
    i = .init ∨ i = .on ∨ i = .off ∨ ∃ level, i = .intensity level := by
  cases i with
  | init | on | off | intensity _ => simp
  | _ => exact absurd rfl h

theorem brightAfter_ne {p : Params} {b : BitVec 3} {i : Instr} (h : brightAfter p b i ≠ b) :
    i = .init ∨ ∃ level, 1 ≤ level ∧ i = .intensity level := by
  cases i with
  | init => simp
  | intensity level =>
    have hl : ¬level < 1 := fun hl => h (if_pos hl)
    exact .inr ⟨level, by omega, rfl⟩
  | _ => exact absurd rfl h

theorem segAfter_ne {p : Params} {m : Memory} {i : Instr} (h : segAfter p m i ≠ m) :
    i = .init ∨ i = .clear ∨ (∃ v k, i = .showdigit v k) ∨ (∃ k b, i = .showsegment k b)
      ∨ (∃ vs k, i = .showdigitarray vs k) ∨ (∃ bs, i = .showsegmentarray bs) ∨ (∃ v, i = .showhex v)
      ∨ (∃ k f, i = .toggledp k f ∧ p.dpWriteback = true) := by
  cases i with
  | init | clear | showdigit _ _ | showsegment _ _ | showdigitarray _ _ | showsegmentarray _ | showhex _ => simp
  | toggledp k f =>
    have hw : p.dpWriteback = true := of_not_not fun hw => h (if_neg hw)
    simp [hw]
  | _ => exact absurd rfl h

theorem returnedBy_eq_nil {i : Instr} (h : ∀ v, i ≠ .enc v) : returnedBy i = [] := by
  cases i with
  | enc v => exact absurd rfl (h v)
  | _ => rfl

end Sys2Proof.Machine

/-! # State family: steps, runs and read-back -/

namespace Sys2Proof.Machine

/-! ## The step -/

/-- A busy block emits the head of its queue (R20). -/
theorem step_busy {s : State} {e : Event} {rest : List Event} (hv : s.params.valid = true) (hq : s.q = e :: rest) :
    step s = .next (State.pinWrite { s with q := rest } e) := by
  simp [step, sequencerStep, hv, hq]

/-- An idle block takes the host's next request (R149, R155). -/
theorem step_idle {s : State} {r : Request} {rs : List Request} (ha : Accepting s) (hr : s.requests = r :: rs) :
    step s = present r { s with requests := rs } := by
  simp [step, sequencerStep, ha.1, ha.2, hr]

theorem present_ok {s : State} {r : Request} {i : Instr} (h : decode s.params r = .ok i) : present r s = exec i s := by
  simp [present, h]

theorem present_error {s : State} {r : Request} {e : DecodeError} (h : decode s.params r = .error e) :
    present r s = .refused (.badRequest e) := by
  simp [present, h]

/-- A request that is taken is one that decodes to an operation that completes. -/
theorem present_next {s t : State} {r : Request} (h : present r s = .next t) :
    ∃ i, decode s.params r = .ok i ∧ exec i s = .next t := by
  cases hd : decode s.params r with
  | ok i => exact ⟨i, rfl, present_ok hd ▸ h⟩
  | error e => rw [present_error hd] at h; cases h

/-! ## Draining -/

/-- As many steps as the queue has events drain it (R20, R154). -/
theorem run_drain {s : State} (hv : s.params.valid = true) :
    Host.Core.run Sys2Proof.core s.q.length s = .next s.drain := by
  induction hq : s.q generalizing s with
  | nil => rw [drain_of_idle s hq]; rfl
  | cons e rest ih =>
    rw [List.length_cons, run_next (step_busy hv hq), drain_cons s e rest hq]
    refine ih ?_ ?_
    · simpa using hv
    · obtain ⟨_ | _, v⟩ := e <;> rfl

/-! ## Reset runs to ready -/

/-- The trace of `INIT` has a first frame, the data command of position 0 (R101, R150). -/
theorem Wire.datGroups_eq_cons {n : Nat} (h : 1 ≤ n) (data : Nat → Byte) (ctrl : Byte) :
    Wire.datGroups n data ctrl = [Wire.dataCommand] :: (Wire.datGroups n data ctrl).tail := by
  obtain ⟨k, rfl⟩ := Nat.exists_eq_add_of_le' h
  simp [Wire.datGroups, List.range_succ_eq_map, Wire.datFrames]

theorem latchAfter_initTrace {n : Nat} (h : 1 ≤ n) (l : Line) (ctrl : Byte) (v : Option Level) :
    latchAfter l (Wire.initTrace n ctrl) v = some true := by
  rw [Wire.initTrace, latchAfter_append, Wire.datGroups_eq_cons h, latchAfter_frames]

/-- The number of positions in its domain (R4). -/
theorem Params.n_bounds {p : Params} (h : p.valid = true) : 1 ≤ p.n ∧ p.n ≤ 64 := by
  simp only [Params.valid, Bool.and_eq_true, decide_eq_true_eq] at h
  omega

/-- Once `INIT` is out the block is at ready (R23, R141). -/
theorem drain_resetWith {p : Params} (h : p.valid = true) : (State.resetWith p).drain = State.readyWith p := by
  simp [State.drain, State.readyWith, State.resetWith, latchAfter_initTrace (Params.n_bounds h).1]

theorem resetWith_q_length (p : Params) : (State.resetWith p).q.length = 2 + 119 * p.n := by
  simp [State.resetWith, Wire.initTrace, Wire.driveLow, Wire.frames_datGroups_length]
  omega

/-! ## The big-step meaning and the steps -/

/-- Only an overlong list is refused by an accepting block. -/
theorem exec_refused {i : Instr} {s : State} {e : Refusal} (ha : Accepting s) (h : exec i s = .refused e) :
    overlong s.params i := by
  by_contra ho
  rw [exec_eq_next_iff.2 ⟨ho, ha, rfl⟩] at h
  cases h

theorem exec_of_overlong {i : Instr} {s : State} (h : overlong s.params i) : exec i s = .refused .overlongList := by
  cases i with
  | showsegmentarray bytes => exact exec_overlong s bytes h
  | _ => cases h

/-- Which requests the host has left does not matter to the one presented: it is refused with the same name. -/
theorem present_refused_requests {s : State} {r : Request} {e : Refusal} (ha : Accepting s)
    (h : present r s = .refused e) (rs : List Request) : present r { s with requests := rs } = .refused e := by
  cases hd : decode s.params r with
  | error e' => rw [present_error hd] at h; rw [← h]; exact present_error hd
  | ok i =>
    rw [present_ok hd] at h
    have ho : overlong s.params i := exec_refused ha h
    rw [← h, exec_of_overlong ho, present_ok (s := { s with requests := rs }) hd]
    exact exec_of_overlong ho

/-- A request that is accepted leads to the same state whichever requests the host has left, these being kept. -/
theorem present_next_requests {s t : State} {r : Request} (h : present r s = .next t) (rs : List Request) :
    present r { s with requests := rs } = .next { t with requests := rs } := by
  obtain ⟨i, hd, he⟩ := present_next h
  have e := exec_surrounded he s.clk s.dio s.trace rs
  obtain rfl := exec_next_eq he
  rw [present_ok (s := { s with requests := rs }) hd]
  exact e

/-- One request performed by steps: one that accepts it and one for each of its events (R20). -/
theorem run_present {s t : State} {r : Request} (ha : Accepting s) (h : present r s = .next t) (rs : List Request) :
    Host.Core.run Sys2Proof.core (t.q.length + 1) { s with requests := r :: rs } =
      .next { t.drain with requests := rs } := by
  obtain ⟨i, -, he⟩ := present_next h
  have hv : t.params.valid = true := by rw [exec_next_eq he]; exact ha.1
  rw [run_next (t := { t with requests := rs })]
  · exact run_drain (s := { t with requests := rs }) hv
  · rw [step_idle (s := { s with requests := r :: rs }) ha rfl]
    exact present_next_requests h rs

/-- What performing one request leads to is an accepting block again, with the same requests left and the trace grown by
the events of the request. -/
theorem drain_present {s t : State} {r : Request} (h : present r s = .next t) :
    Accepting t.drain ∧ t.drain.requests = s.requests ∧ t.drain.trace = s.trace ++ t.q := by
  obtain ⟨i, -, he⟩ := present_next h
  have hv := (exec_next he).1
  obtain rfl := exec_next_eq he
  exact ⟨⟨hv, rfl⟩, rfl, rfl⟩

theorem performAll_next {s t : State} {r : Request} {rs : List Request} (h : present r s = .next t) :
    performAll (r :: rs) s = performAll rs t.drain := by
  simp [performAll, h]

theorem performAll_refused {s : State} {r : Request} {rs : List Request} {e : Refusal} (h : present r s = .refused e) :
    performAll (r :: rs) s = .refused e := by
  simp [performAll, h]

/-- The steps over a list of requests that is performed lead to the same state, one step a request and one an event of
the trace. -/
theorem run_of_performAll_next {rs : List Request} {s t : State} (ha : Accepting s) (hs : s.requests = [])
    (h : performAll rs s = .next t) :
    RunOver t ∧ ∃ es, t.trace = s.trace ++ es
      ∧ Host.Core.run Sys2Proof.core (rs.length + es.length) { s with requests := rs } = .next t := by
  induction rs generalizing s with
  | nil =>
    injection h with h
    subst h
    have same : { s with requests := [] } = s := by rw [← hs]
    exact ⟨⟨hs, ha.2⟩, [], by simp, congrArg Host.Outcome.next same⟩
  | cons r rs ih =>
    cases hp : present r s with
    | fault f => cases f
    | refused e => rw [performAll_refused hp] at h; cases h
    | next u =>
      rw [performAll_next hp] at h
      obtain ⟨hu, hr, htr⟩ := drain_present hp
      obtain ⟨hover, es, htrace, hrun⟩ := ih hu (hr.trans hs) h
      refine ⟨hover, u.q ++ es, by rw [htrace, htr, List.append_assoc], ?_⟩
      have hk : (r :: rs).length + (u.q ++ es).length = (u.q.length + 1) + (rs.length + es.length) := by
        simp only [List.length_cons, List.length_append]
        omega
      rw [hk, run_add (run_present ha hp rs), hrun]

/-- The steps over a list of requests that is refused end in the same refusal. -/
theorem run_of_performAll_refused {rs : List Request} {s : State} {e : Refusal} (ha : Accepting s)
    (h : performAll rs s = .refused e) :
    ∃ k, Host.Core.run Sys2Proof.core k { s with requests := rs } = .refused e := by
  induction rs generalizing s with
  | nil => cases h
  | cons r rs ih =>
    cases hp : present r s with
    | fault f => cases f
    | refused e' =>
      rw [performAll_refused hp] at h
      injection h with h
      subst h
      refine ⟨0 + 1, run_refused ?_⟩
      rw [step_idle (s := { s with requests := r :: rs }) ha rfl]
      exact present_refused_requests ha hp rs
    | next u =>
      rw [performAll_next hp] at h
      obtain ⟨k, hk⟩ := ih (drain_present hp).1 h
      exact ⟨(u.q.length + 1) + k, by rw [run_add (run_present ha hp rs), hk]⟩

/-! ## Read-back -/

theorem readSeg_idle {s : State} {i : Nat} (hq : s.q = []) (hi : i < s.params.n) : readSeg s i = s.seg[i]? := by
  simp [readSeg, hq, hi]

/-- The whole buffer read back, position by position (R22). -/
theorem map_readSeg {s : State} (hq : s.q = []) (hs : SegSized s) :
    (List.range s.params.n).map (readSeg s) = s.seg.map some := by
  have hl : s.seg.length = s.params.n := (Memory.wf_iff _ _).1 hs
  refine List.ext_getElem (by simp [hl]) fun i h _ => ?_
  have hi : i < s.params.n := by simpa using h
  simp [readSeg_idle hq hi, hl, hi]

/-- `SHOWSEGMENTARRAY` of exactly `N` bytes stores exactly those bytes (R106). -/
theorem segAfter_showsegmentarray {p : Params} {m : Memory} {bytes : List Byte} (hm : m.length = p.n)
    (hb : bytes.length = p.n) : segAfter p m (.showsegmentarray bytes) = bytes := by
  refine (set_each_eq_map (arrayByte bytes) p.n m hm).trans (List.ext_getElem (by simp [hb]) fun i _ hi => ?_)
  simp [arrayByte, hi]

end Sys2Proof.Machine

/-! # State family: the mirror -/

namespace Sys2Proof.Machine

/-! ## Reading whole frames -/

/-- A reader on an idle bus with no frame open. -/
def Receiver.Idle (r : Receiver) : Prop :=
  r.clk = some true ∧ r.dio = some true ∧ r.inFrame = false

/-- Any number of bytes sent inside an open frame are read whole (R47, R73). -/
theorem Receiver.read_bytes (bs : List Byte) (d : Option Level) (bytes : List Byte) (frames : List (List Byte)) :
    ∃ d', Receiver.read ⟨some false, d, true, [], bytes, frames⟩ (bs.flatMap Wire.byte) =
      ⟨some false, d', true, [], bytes ++ bs, frames⟩ := by
  induction bs generalizing d bytes with
  | nil => exact ⟨d, by simp⟩
  | cons b bs ih =>
    obtain ⟨d', h⟩ := ih (some (b.getLsbD 7)) (bytes ++ [b])
    exact ⟨d', by rw [List.flatMap_cons, Receiver.read_append, Receiver.read_byte, h, List.append_assoc]; rfl⟩

/-- A frame sent on an idle bus is read whole and leaves the bus idle (R47, R75). -/
theorem Receiver.read_frame {r : Receiver} (h : r.Idle) (bs : List Byte) :
    r.read (Wire.frame bs) = ⟨some true, some true, false, [], [], r.frames ++ [bs]⟩ := by
  obtain ⟨clk, dio, inFrame, bits, bytes, frames⟩ := r
  obtain ⟨rfl, rfl, rfl⟩ := h
  obtain ⟨d, hd⟩ := Receiver.read_bytes bs (some false) [] frames
  have opened : Receiver.read ⟨some true, some true, false, bits, bytes, frames⟩ Wire.start =
      ⟨some false, some false, true, [], [], frames⟩ := rfl
  rw [Wire.frame, Receiver.read_append, Receiver.read_append, opened, hd]
  rfl

/-- A reader on an idle bus reads from a list of frames exactly those frames (R47, R75). -/
theorem Receiver.read_frames {r : Receiver} (h : r.Idle) (fs : List (List Byte)) :
    (r.read (Wire.frames fs)).Idle ∧ (r.read (Wire.frames fs)).frames = r.frames ++ fs := by
  induction fs generalizing r with
  | nil => exact ⟨h, by simp⟩
  | cons f fs ih =>
    rw [Wire.frames_cons, Receiver.read_append, Receiver.read_frame h]
    obtain ⟨hidle, hframes⟩ := ih (r := ⟨some true, some true, false, [], [], r.frames ++ [f]⟩) ⟨rfl, rfl, rfl⟩
    exact ⟨hidle, by rw [hframes, List.append_assoc]; rfl⟩

/-- A byte sent with the clock low and no frame open moves the data line and nothing else. -/
theorem Receiver.read_byte_unframed (b : Byte) (d : Option Level) (bits : List Bool) (bytes : List Byte)
    (frames : List (List Byte)) :
    Receiver.read ⟨some false, d, false, bits, bytes, frames⟩ (Wire.byte b) =
      ⟨some false, some (b.getLsbD 7), false, bits, bytes, frames⟩ := by
  rw [Wire.byte_eq]
  simp [Receiver.read_cons, Receiver.onEvent_data_clock_low, Receiver.onEvent_clock_rises,
    Receiver.onEvent_clock_falls, Receiver.sample]

/-- From any line levels, a reader with no frame open reads every frame of `INIT` but the first, which has no start edge
(R150), and is left on an idle bus. -/
theorem Receiver.read_initTrace {r : Receiver} (h : r.inFrame = false) {n : Nat} (hn : 1 ≤ n) (ctrl : Byte) :
    (r.read (Wire.initTrace n ctrl)).Idle
      ∧ (r.read (Wire.initTrace n ctrl)).frames = r.frames ++ (Wire.datGroups n (fun _ => 0x00#8) ctrl).tail := by
  obtain ⟨clk, dio, inFrame, bits, bytes, frames⟩ := r
  obtain rfl : inFrame = false := h
  have low : Receiver.read ⟨clk, dio, false, bits, bytes, frames⟩ (Wire.driveLow ++ Wire.start) =
      ⟨some false, some false, false, bits, bytes, frames⟩ := rfl
  have first : Receiver.read ⟨clk, dio, false, bits, bytes, frames⟩
      (Wire.driveLow ++ Wire.frame [Wire.dataCommand]) = ⟨some true, some true, false, bits, bytes, frames⟩ := by
    rw [Wire.frame, ← List.append_assoc, ← List.append_assoc, Receiver.read_append, Receiver.read_append, low,
      List.flatMap_singleton, Receiver.read_byte_unframed]
    rfl
  rw [Wire.initTrace, Wire.datGroups_eq_cons hn, Wire.frames_cons, ← List.append_assoc, Receiver.read_append, first]
  exact Receiver.read_frames (r := ⟨some true, some true, false, bits, bytes, frames⟩) ⟨rfl, rfl, rfl⟩ _

/-! ## What frames make of the bytes last sent -/

/-- Address bytes of different positions differ (R54). -/
theorem addressByte_eq_iff {p i : Nat} (hp : p < 64) (hi : i < 64) :
    Wire.addressByte p = Wire.addressByte i ↔ p = i := by
  have position_back : ∀ k < 64, (Wire.addressByte k &&& 0x3F#8).toNat = k := by decide
  refine ⟨fun h => ?_, fun h => h ▸ rfl⟩
  rw [← position_back p hp, h, position_back i hi]

theorem foldl_sentBy_datFrames {p i : Nat} (hp : p < 64) (hi : i < 64) (data ctrl : Byte) (last : Option Byte) :
    (Wire.datFrames p data ctrl).foldl (sentBy i) last = if p = i then some data else last := by
  simp [Wire.datFrames, sentBy, addressByte_eq_iff hp hi]

/-- Groups sent for the entries of a list replace the byte last sent for a position as storing them replaces its entry in
the segment buffer (R12). -/
theorem foldl_sentBy_storeEach {α : Type} (index : α → Nat) (data : α → Byte) (l : List α) (ctrl : Byte) {m : Memory}
    {i : Nat} (hm : m.length ≤ 64) (hl : ∀ x ∈ l, index x < m.length) (hi : i < m.length) :
    (l.flatMap fun x => Wire.datFrames (index x) (data x) ctrl).foldl (sentBy i) m[i]? =
      (storeEach index data l m)[i]? := by
  induction l generalizing m with
  | nil => rfl
  | cons x l ih =>
    have hx : index x < m.length := hl x List.mem_cons_self
    have stored : (if index x = i then some (data x) else m[i]?) = (m.set (index x) (data x))[i]? := by
      rw [List.getElem?_set, if_pos hx]
    rw [List.flatMap_cons, List.foldl_append, foldl_sentBy_datFrames (by omega) (by omega), stored]
    exact ih (by simpa using hm) (fun y hy => by simpa using hl y (List.mem_cons_of_mem x hy)) (by simpa using hi)

/-- After a group for every position the byte last sent for one of them is the one of its group, whatever was sent before. -/
theorem foldl_sentBy_datGroups {n i : Nat} (hn : n ≤ 64) (hi : i < n) (data : Nat → Byte) (ctrl : Byte)
    (last : Option Byte) : (Wire.datGroups n data ctrl).foldl (sentBy i) last = some (data i) := by
  induction n with
  | zero => omega
  | succ n ih =>
    rw [Wire.datGroups_succ, List.foldl_append, foldl_sentBy_datFrames (by omega) (by omega)]
    by_cases h : n = i
    · rw [if_pos h, h]
    · rw [if_neg h, ih (by omega) (by omega)]

/-- The byte of the control registers has the bits 7:6 of a display-control byte (R52, R55). -/
theorem controlBy_controlByte (last : Option Byte) (v : Power) (b : BitVec 3) :
    controlBy last [controlByte v b] = some (controlByte v b) := by
  have bits : (controlByte v b).extractLsb' 6 2 = 2#2 := by
    revert b
    cases v <;> decide
  exact if_pos bits

theorem controlBy_dataCommand (last : Option Byte) : controlBy last [Wire.dataCommand] = last :=
  rfl

theorem foldl_controlBy_datFrames (p : Nat) (data : Byte) (v : Power) (b : BitVec 3) (last : Option Byte) :
    (Wire.datFrames p data (controlByte v b)).foldl controlBy last = some (controlByte v b) :=
  controlBy_controlByte _ v b

/-- After a group for each of one position or more the last control byte is theirs, whatever was sent before. -/
theorem foldl_controlBy_datGroups {n : Nat} (h : 1 ≤ n) (data : Nat → Byte) (v : Power) (b : BitVec 3)
    (last : Option Byte) :
    (Wire.datGroups n data (controlByte v b)).foldl controlBy last = some (controlByte v b) := by
  obtain ⟨k, rfl⟩ := Nat.exists_eq_add_of_le' h
  rw [Wire.datGroups_succ, List.foldl_append, foldl_controlBy_datFrames]

/-- Groups sent with the control byte that was last sent leave it the last one sent. -/
theorem foldl_controlBy_groups {α : Type} (index : α → Nat) (data : α → Byte) (l : List α) (v : Power) (b : BitVec 3) :
    (l.flatMap fun x => Wire.datFrames (index x) (data x) (controlByte v b)).foldl controlBy
      (some (controlByte v b)) = some (controlByte v b) := by
  induction l with
  | nil => rfl
  | cons x l ih => rw [List.flatMap_cons, List.foldl_append, foldl_controlBy_datFrames, ih]

/-! ## What a reader shows -/

/-- A reader shows a segment buffer `m` of `n` positions and a control byte `c`: the bus is idle, and these are the bytes it
last read (R12, R152). -/
structure Receiver.Shows (r : Receiver) (n : Nat) (m : Memory) (c : Byte) : Prop where
  idle : r.Idle
  seg : ∀ i < n, lastSent i r.frames = m[i]?
  control : lastControl r.frames = some c

theorem mirrored_iff (s : State) :
    Mirrored s ↔ Safe s ∧ s.params.dpWriteback = true ∧ OnlyTierB s
      ∧ (wireReader s).Shows s.params.n s.seg s.control := by
  constructor
  · rintro ⟨hs, hw, hb, hc, hd, hf, hseg, hctrl⟩
    exact ⟨hs, hw, hb, ⟨hc, hd, hf⟩, hseg, hctrl⟩
  · rintro ⟨hs, hw, hb, ⟨hc, hd, hf⟩, hseg, hctrl⟩
    exact ⟨hs, hw, hb, hc, hd, hf, hseg, hctrl⟩

namespace Receiver.Shows

variable {r : Receiver} {n : Nat} {m : Memory} {v : Power} {b : BitVec 3}

/-- Frames read change what is shown as they change the bytes last sent. -/
theorem read_frames {c c' : Byte} {m' : Memory} (h : r.Shows n m c) (fs : List (List Byte))
    (hseg : ∀ i < n, fs.foldl (sentBy i) m[i]? = m'[i]?) (hctrl : fs.foldl controlBy (some c) = some c') :
    (r.read (Wire.frames fs)).Shows n m' c' := by
  obtain ⟨hidle, hframes⟩ := Receiver.read_frames h.idle fs
  refine ⟨hidle, fun i hi => ?_, ?_⟩
  · rw [hframes, lastSent, List.foldl_append, ← hseg i hi, ← h.seg i hi]
    rfl
  · rw [hframes, lastControl, List.foldl_append, ← hctrl, ← h.control]
    rfl

/-- Groups for the entries of a list show the buffer with these stored. -/
theorem read_groups {α : Type} (h : r.Shows n m (controlByte v b)) (hn : n ≤ 64) (hm : m.length = n) (index : α → Nat)
    (data : α → Byte) (l : List α) (hl : ∀ x ∈ l, index x < n) :
    (r.read (Wire.frames (l.flatMap fun x => Wire.datFrames (index x) (data x) (controlByte v b)))).Shows n
      (storeEach index data l m) (controlByte v b) := by
  subst hm
  exact h.read_frames _ (fun i hi => foldl_sentBy_storeEach index data l _ hn hl hi)
    (foldl_controlBy_groups index data l v b)

/-- A group for one position shows the buffer with its byte stored. -/
theorem read_datFrames (h : r.Shows n m (controlByte v b)) (hn : n ≤ 64) (hm : m.length = n) {p : Nat} (hp : p < n)
    (data : Byte) :
    (r.read (Wire.frames (Wire.datFrames p data (controlByte v b)))).Shows n (m.set p data) (controlByte v b) := by
  simpa [storeEach] using h.read_groups hn hm (fun _ => p) (fun _ => data) [()] fun _ _ => hp

/-- A group for each position in ascending order shows the buffer with all stored. -/
theorem read_datGroups (h : r.Shows n m (controlByte v b)) (hn : n ≤ 64) (hm : m.length = n) (data : Nat → Byte) :
    (r.read (Wire.frames (Wire.datGroups n data (controlByte v b)))).Shows n
      (storeEach id data (List.range n) m) (controlByte v b) :=
  h.read_groups hn hm id data _ fun _ hx => List.mem_range.1 hx

/-- A control frame, after a data command or not, shows its byte and the buffer as it was. -/
theorem read_control {c : Byte} (h : r.Shows n m c) (withData : Prop) [Decidable withData] (v : Power) (b : BitVec 3) :
    (r.read (Wire.frames ((if withData then [[Wire.dataCommand]] else []) ++ [[controlByte v b]]))).Shows n m
      (controlByte v b) := by
  split <;> exact h.read_frames _ (fun _ _ => rfl) (controlBy_controlByte _ v b)

end Receiver.Shows

/-- The trace of `INIT` shows a cleared buffer, whatever was sent before (R101, R150). -/
theorem Receiver.shows_initTrace {r : Receiver} (h : r.inFrame = false) {n : Nat} (h1 : 1 ≤ n) (hn : n ≤ 64) (v : Power)
    (b : BitVec 3) :
    (r.read (Wire.initTrace n (controlByte v b))).Shows n (List.replicate n 0x00#8) (controlByte v b) := by
  obtain ⟨hidle, hframes⟩ := Receiver.read_initTrace h h1 (controlByte v b)
  refine ⟨hidle, fun i hi => ?_, ?_⟩
  · have whole := foldl_sentBy_datGroups hn hi (fun _ => 0x00#8) (controlByte v b) (lastSent i r.frames)
    rw [Wire.datGroups_eq_cons h1] at whole
    rw [hframes, lastSent, List.foldl_append, List.getElem?_replicate, if_pos hi, ← whole]
    rfl
  · have whole := foldl_controlBy_datGroups h1 (fun _ => 0x00#8) v b (lastControl r.frames)
    rw [Wire.datGroups_eq_cons h1, List.foldl_cons, controlBy_dataCommand] at whole
    rw [hframes, lastControl, List.foldl_append, ← whole]
    rfl

/-- What an operation of tier B sends shows the registers it leaves (R12, R152). -/
theorem Receiver.Shows.read_pinWrites {r : Receiver} {s : State} (i : Instr) (hb : tierB i = true) (hs : Safe s)
    (hw : s.params.dpWriteback = true) (h : r.Shows s.params.n s.seg s.control) :
    (r.read (pinWrites s.params s.seg (controlAfter s i) i)).Shows s.params.n (segAfter s.params s.seg i)
      (controlAfter s i) := by
  obtain ⟨h1, hn⟩ := Params.n_bounds hs.1
  have hm : s.seg.length = s.params.n := (Memory.wf_iff _ _).1 hs.2
  have hp (pos : Nat) : position s.params pos < s.params.n := Nat.mod_lt _ h1
  cases i with
  | init =>
    obtain ⟨_, _, closed⟩ := h.idle
    exact Receiver.shows_initTrace closed h1 hn _ _
  | intensity level => exact h.read_control _ _ _
  | on | off => exact h.read_control True _ _
  | showdigit _ _ | showsegment _ _ => exact h.read_datFrames hn hm (hp _) _
  | toggledp pos shown =>
    rw [segAfter, if_pos hw]
    exact h.read_datFrames hn hm (hp _) _
  | clear | showdigitarray _ _ | showsegmentarray _ => exact h.read_datGroups hn hm _
  | showhex value => exact h.read_groups hn hm _ _ _ fun k _ => hp k
  | _ => cases hb

/-! ## The mirror is kept -/

theorem wireReader_pinWrite {s : State} {e : Event} {rest : List Event} (hq : s.q = e :: rest) :
    wireReader (State.pinWrite { s with q := rest } e) = wireReader s := by
  obtain ⟨_ | _, v⟩ := e <;> simp [wireReader, State.pinWrite, hq]

/-- An event passing from the queue to the trace changes nothing of the mirror. -/
theorem pinWrite_keeps_mirrored {s : State} {e : Event} {rest : List Event} (hm : Mirrored s) (hq : s.q = e :: rest) :
    Mirrored (State.pinWrite { s with q := rest } e) := by
  rw [mirrored_iff, wireReader_pinWrite hq]
  rw [mirrored_iff] at hm
  obtain ⟨_ | _, v⟩ := e <;> exact hm

/-- A completed operation of tier B keeps the mirror. -/
theorem exec_keeps_mirrored {s t : State} {i : Instr} (hm : Mirrored s) (hb : tierB i = true) (h : exec i s = .next t) :
    Mirrored t := by
  obtain ⟨hs, hw, htier, hshows⟩ := (mirrored_iff s).1 hm
  obtain ⟨_, hq, _⟩ := exec_next h
  have safe : Safe t := exec_keeps_safe hs h
  obtain rfl := exec_next_eq h
  refine (mirrored_iff _).2 ⟨safe, hw, htier, ?_⟩
  have reader : wireReader s = (Receiver.fresh none none).read s.trace := by rw [wireReader, hq, List.append_nil]
  rw [wireReader, Receiver.read_append, ← reader]
  exact hshows.read_pinWrites i hb hs hw

/-- Taking a request off the list keeps the mirror. -/
theorem Mirrored.tail_requests {s : State} {r : Request} {rs : List Request} (hm : Mirrored s) (hr : s.requests = r :: rs) :
    Mirrored { s with requests := rs } := by
  obtain ⟨hs, hw, htier, hshows⟩ := (mirrored_iff s).1 hm
  exact (mirrored_iff _).2 ⟨hs, hw, fun r' hr' => htier r' (hr ▸ List.mem_cons_of_mem r hr'), hshows⟩

end Sys2Proof.Machine

/-! ## The obligations of the family -/

namespace Sys2Proof.StateFamily

open Sys2Proof.Machine

/-- Settles O55: each of the three things a step can do keeps the mirror. -/
theorem stepKeepsTheMirror : Obligations.StepKeepsTheMirror := by
  intro s t hm h
  obtain ⟨_, ⟨e, rest, hq, rfl⟩ | ⟨_, r, rs, i, hr, hd, hi⟩ | ⟨_, _, rfl⟩⟩ := step_next h
  · exact pinWrite_keeps_mirrored hm hq
  · obtain ⟨_, _, htier, _⟩ := (mirrored_iff s).1 hm
    exact exec_keeps_mirrored (hm.tail_requests hr) (htier r (hr ▸ List.mem_cons_self) i hd) hi
  · exact hm

/-- Settles O7: reset release drains in as many steps as `INIT` has events. -/
theorem resetRunsToReady : Obligations.ResetRunsToReady := by
  refine ⟨fun p hp => ?_, by decide⟩
  rw [← resetWith_q_length p, run_drain (s := State.resetWith p) hp, drain_resetWith hp]

/-- Settles O39, from the closed form of the two registers. -/
theorem controlRegisterWriters : Obligations.ControlRegisterWriters := by
  intro i s t h
  obtain rfl := exec_next_eq h
  exact ⟨powerAfter_ne, brightAfter_ne⟩

/-- Settles O40, from the closed form of `SEG`. -/
theorem segmentBufferWriters : Obligations.SegmentBufferWriters := by
  intro i s t h
  constructor
  · obtain ⟨_, _, rfl⟩ := exec_next h
    exact body_keeps_segSized i s
  · obtain rfl := exec_next_eq h
    exact segAfter_ne

/-- Settles O41: the closed form updates none of these fields. -/
theorem acceptanceFrame : Obligations.AcceptanceFrame := by
  intro i s t h
  obtain rfl := exec_next_eq h
  exact ⟨rfl, rfl, rfl, rfl, rfl, fun hi =>
    (congrArg (s.returned ++ ·) (returnedBy_eq_nil hi)).trans (List.append_nil _)⟩

/-- Settles O42: the closed form reads none of these fields. -/
theorem lineLevelsAreNeverRead : Obligations.LineLevelsAreNeverRead := by
  intro i s t c d es h
  have e := exec_surrounded h c d es s.requests
  obtain rfl := exec_next_eq h
  exact e

/-- Settles O48: a busy step moves one event from the queue to the trace, an accepted operation leaves the trace and finds
the queue empty. -/
theorem stepKeepsEventsInOrder : Obligations.StepKeepsEventsInOrder := by
  intro s t h
  obtain ⟨_, ⟨e, rest, hq, rfl⟩ | ⟨hq, r, rs, i, _, _, hi⟩ | ⟨_, _, rfl⟩⟩ := step_next h
  · obtain ⟨_ | _, v⟩ := e <;> simp [State.pinWrite, hq]
  · rw [exec_next_eq hi, hq]
    simp
  · simp

/-- Settles O49, by the induction on the queue of `run_drain`. -/
theorem queueDrainsInItsLength : Obligations.QueueDrainsInItsLength :=
  fun _ hv => ⟨run_drain hv, rfl, rfl, rfl⟩

/-- Settles O50, by induction on the requests in both outcomes. -/
theorem stepsRefineBigSteps : Obligations.StepsRefineBigSteps := by
  refine fun rs s ha hs => ⟨fun t ht => ?_, fun e => run_of_performAll_refused ha⟩
  obtain ⟨hover, es, htrace, hrun⟩ := run_of_performAll_next ha hs ht
  have hk : t.trace.length - s.trace.length = es.length := by simp [htrace]
  exact ⟨hover, hk.symm ▸ hrun⟩

/-- Settles O52: the buffer after the operation is the operand, and read-back gives the buffer. -/
theorem segmentArrayRoundTrip : Obligations.SegmentArrayRoundTrip := by
  intro s bytes ha hs hb
  have he : exec (.showsegmentarray bytes) s = .next (body (.showsegmentarray bytes) s) :=
    exec_eq_next_iff.2 ⟨hb.le.not_gt, ha, rfl⟩
  refine ⟨(body (.showsegmentarray bytes) s).drain, by simp [perform, he], ?_⟩
  have hn : (body (.showsegmentarray bytes) s).drain.params.n = s.params.n := by simp
  rw [← hn, map_readSeg (State.drain_q _) (body_keeps_segSized _ s hs), State.drain_seg, body_eq]
  exact congrArg _ (segAfter_showsegmentarray ((Memory.wf_iff _ _).1 hs) hb)

/-- Settles O1: an idle step presents the request. -/
theorem stepRunsTheDecodedRequest : Obligations.StepRunsTheDecodedRequest := by
  intro s r rs ha hr
  rw [step_idle ha hr]
  exact ⟨fun i hd => present_ok hd, fun e hd => present_error hd⟩

/-- Settles O2: `step_busy` for each line. -/
theorem busyStepEmitsTheNextEvent : Obligations.BusyStepEmitsTheNextEvent :=
  fun _ _ _ hv => ⟨step_busy hv, step_busy hv⟩

/-- Settles O51: each port in an idle and in a busy block. -/
theorem readBackWhenIdleOnly : Obligations.ReadBackWhenIdleOnly := by
  intro s i hs
  have hl : s.seg.length = s.params.n := (Memory.wf_iff _ _).1 hs
  refine ⟨fun hq => ⟨by simp [readBusy, hq], fun hi => ?_, ?_, by simp [readBright, hq]⟩, fun hq => ?_⟩
  · rw [readSeg_idle hq hi]
    exact ⟨rfl, by simp [hl, hi]⟩
  · cases hp : s.pwr <;> simp [readPower, hq, hp, Power.number]
  · simp [readBusy, readSeg, readPower, readBright, hq]

/-- Settles O56: what is pending at reset release is the trace of `INIT`. -/
theorem resetIsMirrored : Obligations.ResetIsMirrored := by
  intro p hp hw
  obtain ⟨h1, hn⟩ := Params.n_bounds hp
  refine (mirrored_iff _).2 ⟨resetWith_safe hp, hw, fun r hr => ?_, ?_⟩
  · cases hr
  · exact Receiver.shows_initTrace (r := Receiver.fresh none none) rfl h1 hn _ _

end Sys2Proof.StateFamily

/-! # Memory family: the nibbles of a hex operand -/

namespace Sys2Proof.Machine

/-- `HEX_ORDER` of a block with parameters in their domains names the positions 0 to 3 and no other (R4). -/
theorem Params.mem_hexOrder {p : Params} (h : p.valid = true) (k : Nat) : k ∈ p.hexOrder ↔ k ∈ [0, 1, 2, 3] := by
  have hperm : p.hexOrder.isPerm [0, 1, 2, 3] = true := (Bool.and_eq_true_iff.1 h).2
  exact (List.isPerm_iff.1 hperm).mem_iff

theorem nibble_eq_div_mod (value : BitVec 16) (k : Nat) : nibble value k = value.toNat / 2 ^ (4 * (3 - k)) % 16 := by
  rw [nibble, BitVec.extractLsb'_toNat, Nat.shiftRight_eq_div_pow]

/-- The pattern of nibble `k` is the table's byte at that nibble (R37, R91). -/
theorem segmentPattern_nibble (value : BitVec 16) (k : Nat) :
    segmentPattern (nibble value k) = lut.getD (value.toNat / 2 ^ (4 * (3 - k)) % 16) 0x00#8 := by
  rw [segmentPattern, digitAddress, nibble_eq_div_mod, Nat.mod_mod]

/-- The four glyphs of R108 are the patterns `SHOWHEX` shows at the positions `HEX_ORDER` names. -/
theorem segmentPattern_nibble_eq_glyph {p : Params} (hp : p.valid = true) {value : BitVec 16} {glyph : Nat → Byte}
    (h0 : glyph 0 = lut.getD (value.toNat / 4096) 0x00#8) (h1 : glyph 1 = lut.getD (value.toNat / 256 % 16) 0x00#8)
    (h2 : glyph 2 = lut.getD (value.toNat / 16 % 16) 0x00#8) (h3 : glyph 3 = lut.getD (value.toNat % 16) 0x00#8) :
    ∀ k ∈ p.hexOrder, segmentPattern (nibble value k) = glyph k := by
  intro k hk
  have hk : k = 0 ∨ k = 1 ∨ k = 2 ∨ k = 3 := by simpa using (Params.mem_hexOrder hp k).1 hk
  rw [segmentPattern_nibble]
  obtain rfl | rfl | rfl | rfl := hk
  · have top : value.toNat / 4096 % 16 = value.toNat / 4096 := Nat.mod_eq_of_lt (by omega)
    exact (congrArg (lut.getD · 0x00#8) top).trans h0.symm
  · exact h1.symm
  · exact h2.symm
  · simp [h3]

/-- `SHOWHEX` with its patterns given by name at the positions `HEX_ORDER` names (R108). -/
theorem opShowhex_eq_of_glyph {s : State} {value : BitVec 16} {glyph : Nat → Byte}
    (h : ∀ k ∈ s.params.hexOrder, segmentPattern (nibble value k) = glyph k) :
    opShowhex value s =
      { s with
        seg := s.params.hexOrder.foldl (fun m k => m.set (position s.params k) (glyph k)) s.seg
        q := s.q ++ Wire.frames (s.params.hexOrder.flatMap fun k =>
          Wire.datFrames (position s.params k) (glyph k) s.control) } := by
  have hseg : s.params.hexOrder.foldl (fun m k => m.set (position s.params k) (segmentPattern (nibble value k))) s.seg =
      s.params.hexOrder.foldl (fun m k => m.set (position s.params k) (glyph k)) s.seg :=
    List.foldl_ext _ _ _ fun m k hk => congrArg (m.set _) (h k hk)
  have hframes : (s.params.hexOrder.flatMap fun k =>
        Wire.datFrames (position s.params k) (segmentPattern (nibble value k)) s.control) =
      s.params.hexOrder.flatMap fun k => Wire.datFrames (position s.params k) (glyph k) s.control :=
    List.flatMap_congr fun k hk => by rw [h k hk]
  rw [opShowhex_eq, hseg, hframes]

end Sys2Proof.Machine

/-! ## The obligations of the family -/

namespace Sys2Proof.MemoryFamily

open Sys2Proof.Machine

/-- Settles O53, by the induction on the frames of `Receiver.read_frames`. -/
theorem receiverReadsExactlyTheFrames : Obligations.ReceiverReadsExactlyTheFrames := by
  intro fs r hclk hdio hframe
  obtain ⟨hidle, hframes⟩ := Receiver.read_frames ⟨hclk, hdio, hframe⟩ fs
  exact ⟨hframes, hidle⟩

/-- Settles O17: the closed form of an operation outside tier B updates none of the three registers. -/
theorem lowerLayersWriteNoRegister : Obligations.LowerLayersWriteNoRegister := by
  intro i s t hi h
  obtain rfl := exec_next_eq h
  cases i with
  | start | stop | writebyte _ | datacmd | addrdata _ _ | dispctrl | dat _ _ | enc _
  | wireData | wireAddr _ | wireCtrl _ _ => exact ⟨rfl, rfl, rfl⟩
  | _ => cases hi

/-- Settles O29: the glyphs are the patterns `SHOWHEX` shows, and an accepting block has nothing queued before them. -/
theorem showhexWritesFourNibbles : Obligations.ShowhexWritesFourNibbles := by
  intro s value glyph ha h0 h1 h2 h3
  have hbody := opShowhex_eq_of_glyph (segmentPattern_nibble_eq_glyph ha.1 h0 h1 h2 h3)
  rw [ha.2, List.nil_append] at hbody
  exact ⟨rfl, exec_eq_next_iff.2 ⟨id, ha, hbody.symm⟩⟩

/-- Settles O54: the trace of `INIT` read from any line levels. -/
theorem firstFrameAfterResetIsNotRead : Obligations.FirstFrameAfterResetIsNotRead := by
  intro n ctrl c d hn
  exact (Receiver.read_initTrace (r := Receiver.fresh c d) rfl hn ctrl).2

end Sys2Proof.MemoryFamily

/-! # Encoding family: the decoder and the encoder -/

namespace Sys2Proof

/-! ## Selectors -/

/-- A reserved selector code is refused whatever its operands (R64, D18). -/
theorem decodeSelector_reserved {opsel : BitVec 5} (h : 0x13 ≤ opsel.toNat) (operands : List Operand) :
    decodeSelector opsel operands = .error (.reservedSelector opsel) := by
  obtain ⟨k, hk⟩ := Nat.exists_eq_add_of_le' h
  unfold decodeSelector
  rw [hk]
  rfl

/-- A selector and operands that decode to an operation are the ones the encoder gives it: each code of R63 stands for one
operation and takes one form of operands. -/
theorem encode_of_decodeSelector {opsel : BitVec 5} {operands : List Operand} {i : Instr}
    (h : decodeSelector opsel operands = .ok i) : encode i = .opsel5 opsel operands := by
  unfold decodeSelector at h
  split at h
  case h_20 => cases h -- the reserved codes (R64)
  all_goals
    rename_i code
    split at h
    · cases h
      exact congrArg (Request.opsel5 · _) (BitVec.eq_of_toNat_eq code.symm)
    · cases h

/-! ## Wire bytes -/

/-- The fields of an address byte (R54): bits 7:6 are `11`, so that it is no other command byte. -/
theorem addressLayout_fields (a : BitVec 6) :
    3#2 ++ a ≠ 0x40#8 ∧ (3#2 ++ a).extractLsb' 6 2 = 3#2 ∧ (3#2 ++ a).extractLsb' 0 6 = a := by
  refine ⟨?_, BitVec.extractLsb'_append_eq_left, BitVec.extractLsb'_append_eq_right⟩
  revert a
  decide

/-- The fields of a display-control byte (R55): bits 7:6 are `10`, so that it is no other command byte. -/
theorem controlLayout_fields (p : Bool) (b : BitVec 3) :
    8#4 ++ BitVec.ofBool p ++ b ≠ 0x40#8 ∧ (8#4 ++ BitVec.ofBool p ++ b).extractLsb' 6 2 ≠ 3#2
      ∧ (8#4 ++ BitVec.ofBool p ++ b).extractLsb' 4 4 = 8#4 ∧ (8#4 ++ BitVec.ofBool p ++ b).getLsbD 3 = p
      ∧ (8#4 ++ BitVec.ofBool p ++ b).extractLsb' 0 3 = b := by
  revert p b
  decide

/-- A byte is its bits 7:6 before its bits 5..0 (R54). -/
theorem addressLayout_of_fields (b : Byte) : b.extractLsb' 6 2 ++ b.extractLsb' 0 6 = b :=
  (BitVec.extractLsb'_append_extractLsb'_eq_extractLsb' rfl).trans BitVec.extractLsb'_eq_self

/-- A byte is its bits 7:4, its bit 3 and its bits 2..0 (R55). -/
theorem controlLayout_of_fields (b : Byte) :
    b.extractLsb' 4 4 ++ BitVec.ofBool (b.getLsbD 3) ++ b.extractLsb' 0 3 = b := by
  revert b
  decide

/-- An address byte of a position below `N` decodes to that address (R42, R54). -/
theorem decodeWire_addressLayout {cfg : Params} {a : BitVec 6} (h : a.toNat < cfg.n) :
    decodeWire cfg (3#2 ++ a) = .ok (.wireAddr a) := by
  obtain ⟨hdata, hkind, haddr⟩ := addressLayout_fields a
  rw [decodeWire, if_neg hdata, haddr, if_pos ⟨hkind, h⟩]

/-- A display-control byte decodes to its power bit and brightness (R55). -/
theorem decodeWire_controlLayout (cfg : Params) (p : Bool) (b : BitVec 3) :
    decodeWire cfg (8#4 ++ BitVec.ofBool p ++ b) = .ok (.wireCtrl p b) := by
  obtain ⟨hdata, hkind, htop, hp, hb⟩ := controlLayout_fields p b
  rw [decodeWire, if_neg hdata, if_neg (fun h => hkind h.1), if_pos htop, hp, hb]

/-- A wire byte that decodes to an operation has the layout the encoder gives that operation (R53, R54, R55). -/
theorem encode_of_decodeWire {cfg : Params} {b : Byte} {i : Instr} (h : decodeWire cfg b = .ok i) :
    encode i = .wire8 b := by
  unfold decodeWire at h
  split_ifs at h with hdata haddr hctrl <;> cases h
  · rw [hdata, encode]
  · rw [encode, ← haddr.1, addressLayout_of_fields]
  · rw [encode, ← hctrl, controlLayout_of_fields]

/-! ## Requests -/

/-- Decoding the request that selects a well-formed operation gives the operation back with every operand (R62, R63). -/
theorem decode_encode {cfg : Params} {i : Instr} (h : i.wellFormed cfg = true) : decode cfg (encode i) = .ok i := by
  cases i with
  | wireAddr a => exact decodeWire_addressLayout (of_decide_eq_true h)
  | wireCtrl p b => exact decodeWire_controlLayout cfg p b
  | _ => rfl

/-- A request that decodes to an operation is the encoding of it (R62, R63). -/
theorem encode_of_decode {cfg : Params} {r : Request} {i : Instr} (h : decode cfg r = .ok i) : encode i = r := by
  cases r with
  | opsel5 opsel operands => exact encode_of_decodeSelector h
  | wire8 b => exact encode_of_decodeWire h

end Sys2Proof

/-! # Encoding family: wire-byte rows and placed words -/

namespace Sys2Proof.Machine

/-- An operation that writes no register and returns nothing leaves an accepting block with its pin writes queued (R20). -/
theorem exec_of_body_emit {i : Instr} {s : State} {es : List Event} (ha : Accepting s) (ho : ¬overlong s.params i)
    (hb : body i s = s.emit es) : exec i s = .next { s with q := es } := by
  refine exec_eq_next_iff.2 ⟨ho, ha, ?_⟩
  rw [hb, State.emit, ha.2, List.nil_append]

/-- The address byte of a position that needs no reduction, as a sum: bits 7:6 and the address do not overlap (R54). -/
theorem addressByte_eq_add {a : BitVec 6} {n : Nat} (h : a.toNat < n) :
    0xC0#8 ||| BitVec.ofNat 8 (a.toNat % n) = 0xC0#8 + a.zeroExtend 8 := by
  have disjoint : ∀ a : BitVec 6, 0xC0#8 ||| BitVec.ofNat 8 a.toNat = 0xC0#8 + a.zeroExtend 8 := by decide
  rw [Nat.mod_eq_of_lt h, disjoint]

/-- The display-control byte as a sum: its three fields do not overlap (R55). -/
theorem controlByte_eq_add (p : Bool) (b : BitVec 3) :
    controlByte (if p then .on else .off) b = 0x80#8 + (if p then 8#8 else 0#8) + b.zeroExtend 8 := by
  revert p b
  decide

/-- A placed request is what the next step presents, in the block with its pending events emitted (log 8). -/
theorem step_placeRequest {s : State} (hv : s.params.valid = true) (r : Request) :
    step (placeRequest s r) = present r s.drain :=
  step_idle (s := placeRequest s r) ⟨hv, rfl⟩ rfl

end Sys2Proof.Machine

/-! ## The obligations of the family -/

namespace Sys2Proof.EncodingFamily

open Sys2Proof.Machine

/-- Settles O57: `decode_encode` and `encode_of_decode`. -/
theorem decodeAndEncodeAgree : Obligations.DecodeAndEncodeAgree :=
  ⟨fun _ _ => decode_encode, fun _ _ _ => encode_of_decode⟩

/-- Settles O18: each row's body queues the pin writes of one byte. -/
theorem wireRowsSendTheirByte : Obligations.WireRowsSendTheirByte := by
  intro s a p b ha
  refine ⟨exec_of_body_emit ha id rfl, exec_of_body_emit ha id rfl, addressByte_eq_add, ?_⟩
  rw [← controlByte_eq_add]
  exact exec_of_body_emit ha id rfl

/-- Settles O4: the placed request is presented, and it decodes to the operation. -/
theorem placedWordRunsNext : Obligations.PlacedWordRunsNext := by
  intro s nbits w i hv hd
  rw [State.withFetchWord, step_placeRequest hv]
  exact present_ok hd

/-- Settles O58: an idle step presents the request, whose decoding is the reserved-selector error. -/
theorem reservedSelectorsAreRefused : Obligations.ReservedSelectorsAreRefused := by
  intro s opsel operands rs h
  have hd : decode s.params (.opsel5 opsel operands) = .error (.reservedSelector opsel) :=
    decodeSelector_reserved h operands
  exact ⟨hd, fun ha hr => (step_idle ha hr).trans (present_error hd)⟩

/-- Settles O59: the selector words, the reserved words and the wire-byte words, each evaluated by the decoder. -/
theorem tableWordsDecode : Obligations.TableWordsDecode := by
  refine ⟨?selectors, ?reserved, ?wireBytes⟩
  case selectors => decide
  case reserved => decide
  case wireBytes => decide

end Sys2Proof.EncodingFamily

/-! # Frame transport family: what is performed, the lines after it and its edges -/

namespace Sys2Proof.Machine

/-! ## The lines after an operation -/

/-- An operation that only queues pin writes, once performed, has moved the latches and the trace and nothing else (R19). -/
theorem perform_of_exec_queues {i : Instr} {s : State} {es : List Event} (ha : Accepting s)
    (h : exec i s = .next { s with q := es }) :
    perform i s =
      .next { s with
        clk := latchAfter .clk es s.clk
        dio := latchAfter .dio es s.dio
        trace := s.trace ++ es } := by
  simp only [perform, h, State.drain, ha.2]

/-- An operation that is performed has completed and its events are out (R8, R19). -/
theorem perform_next {i : Instr} {s t : State} (h : perform i s = .next t) :
    ∃ u, exec i s = .next u ∧ t = u.drain := by
  unfold perform at h
  cases he : exec i s with
  | next u => rw [he] at h; injection h with h; exact ⟨u, rfl, h.symm⟩
  | fault f => cases f
  | refused r => rw [he] at h; cases h

/-- After whole frames both lines are high, whatever came before the last of them (R75). -/
theorem latchAfter_frames_concat (l : Line) (fs : List (List Byte)) (f : List Byte) (v : Option Level) :
    latchAfter l (Wire.frames (fs ++ [f])) v = some true := by
  rw [Wire.frames_append, latchAfter_append, latchAfter_frames]

theorem latchAfter_datGroups {n : Nat} (h : 1 ≤ n) (data : Nat → Byte) (l : Line) (ctrl : Byte) (v : Option Level) :
    latchAfter l (Wire.frames (Wire.datGroups n data ctrl)) v = some true := by
  rw [Wire.datGroups_eq_cons h, latchAfter_frames]

/-- The pin writes of an operation of the command layer or of tier B end with a whole frame: both lines are high after
them, from any line levels (R75, R100). -/
theorem latchAfter_pinWrites {p : Params} {i : Instr} (hi : tierB i = true ∨ commandLayer i = true) (hp : p.valid = true)
    (m : Memory) (ctrl : Byte) (l : Line) (v : Option Level) : latchAfter l (pinWrites p m ctrl i) v = some true := by
  have hn : 1 ≤ p.n := (Params.n_bounds hp).1
  cases i with
  | init => exact latchAfter_initTrace hn l ctrl v
  | datacmd | addrdata _ _ | dispctrl | dat _ _ | showdigit _ _ | showsegment _ _ | toggledp _ _ | on | off =>
    exact latchAfter_frames l _ _ v
  | intensity level => exact latchAfter_frames_concat l _ [ctrl] v
  | clear | showdigitarray _ _ | showsegmentarray _ => exact latchAfter_datGroups hn _ l ctrl v
  | showhex value =>
    have order_ne_nil : p.hexOrder ≠ [] := List.ne_nil_of_mem ((Params.mem_hexOrder hp 0).2 List.mem_cons_self)
    obtain ⟨k, ks, hk⟩ := List.exists_cons_of_ne_nil order_ne_nil
    rw [pinWrites, hk]
    exact latchAfter_frames l _ _ v
  | start | stop | writebyte _ | enc _ | wireData | wireAddr _ | wireCtrl _ _ => simp [tierB, commandLayer] at hi

/-! ## Edges of a trace in two parts -/

theorem risingEdges_append (c : Option Level) (es fs : List Event) :
    risingEdges c (es ++ fs) = risingEdges c es + risingEdges (latchAfter .clk es c) fs := by
  induction es generalizing c with
  | nil => simp [risingEdges]
  | cons e es ih =>
    obtain ⟨_ | _, v⟩ := e
    · simp [risingEdges, ih, Nat.add_assoc]
    · simp [risingEdges, ih]

theorem dataEdges_append (c d : Option Level) (es fs : List Event) :
    dataEdges c d (es ++ fs) = dataEdges c d es ++ dataEdges (latchAfter .clk es c) (latchAfter .dio es d) fs := by
  induction es generalizing c d with
  | nil => rfl
  | cons e es ih =>
    obtain ⟨_ | _, v⟩ := e
    · simp [dataEdges, ih]
    · by_cases h : c = some true ∧ d = some (!v) <;> simp [dataEdges, ih, h]

/-! ## Edges of a frame -/

/-- A start condition on an idle bus is one start edge (R71). -/
theorem dataEdges_start : dataEdges (some true) (some true) Wire.start = [false] := rfl

/-- A stop condition with the clock low is one stop edge, whatever the data line (R72). -/
theorem dataEdges_stop (d : Option Level) : dataEdges (some false) d Wire.stop = [true] := rfl

theorem latchAfter_bytes_clk (bs : List Byte) :
    latchAfter .clk (bs.flatMap Wire.byte) (some false) = some false := by
  induction bs with
  | nil => rfl
  | cons b bs ih => rw [List.flatMap_cons, latchAfter_append, latchAfter_byte_clk, ih]

/-- With the clock low before them, bytes change the data line only while the clock is low (R75). -/
theorem dataEdges_bytes (bs : List Byte) (d : Option Level) : dataEdges (some false) d (bs.flatMap Wire.byte) = [] := by
  induction bs generalizing d with
  | nil => rfl
  | cons b bs ih =>
    have one_byte : dataEdges (some false) d (Wire.byte b) = [] := rfl
    rw [List.flatMap_cons, dataEdges_append, one_byte, latchAfter_byte_clk, ih, List.append_nil]

/-- With the clock low before them, bytes raise it nine times each: eight bit cells and the ACK slot (R73, R75). -/
theorem risingEdges_bytes (bs : List Byte) : risingEdges (some false) (bs.flatMap Wire.byte) = 9 * bs.length := by
  induction bs with
  | nil => rfl
  | cons b bs ih =>
    have one_byte : risingEdges (some false) (Wire.byte b) = 9 := by
      simp [Wire.byte_eq, risingEdges, Event.c, Event.d]
    rw [List.flatMap_cons, risingEdges_append, one_byte, latchAfter_byte_clk, ih, List.length_cons, Nat.mul_succ,
      Nat.add_comm]

/-- On an idle bus a frame is one start edge and one stop edge (R75 (3)). -/
theorem dataEdges_frame (bs : List Byte) : dataEdges (some true) (some true) (Wire.frame bs) = [false, true] := by
  rw [Wire.frame, dataEdges_append, latchAfter_append, dataEdges_append, latchAfter_start, latchAfter_start,
    latchAfter_bytes_clk, dataEdges_start, dataEdges_bytes, dataEdges_stop]
  rfl

/-- With the clock high before it, a frame raises the clock nine times a byte and once in its stop condition (R75 (4)). -/
theorem risingEdges_frame (bs : List Byte) : risingEdges (some true) (Wire.frame bs) = 9 * bs.length + 1 := by
  have start_none : risingEdges (some true) Wire.start = 0 := rfl
  have stop_one : risingEdges (some false) Wire.stop = 1 := rfl
  rw [Wire.frame, risingEdges_append, latchAfter_append, risingEdges_append, latchAfter_start, latchAfter_bytes_clk,
    start_none, risingEdges_bytes, stop_one, Nat.zero_add]

end Sys2Proof.Machine

/-! ## The obligations of the family -/

namespace Sys2Proof.TransportFamily

open Sys2Proof.Machine

/-- Settles O11: the body queues `Wire.byte b`, which is the list of events written out. -/
theorem writebyteSendsLeastSignificantFirst : Obligations.WritebyteSendsLeastSignificantFirst := by
  intro s b ha
  have he : exec (.writebyte b) s = .next { s with q := Wire.byte b } := exec_of_body_emit ha id rfl
  refine ⟨decode_encode (i := .writebyte b) rfl, Wire.byte b, Wire.byte_eq b, he, ?_⟩
  rw [perform_of_exec_queues ha he, latchAfter_byte_clk, latchAfter_byte_dio]
  rfl

/-- Settles O12, by induction on the bytes between the start and the stop condition. -/
theorem frameHasOneStartAndOneStopEdge : Obligations.FrameHasOneStartAndOneStopEdge :=
  fun bytes => ⟨dataEdges_frame bytes, risingEdges_frame bytes⟩

/-- Settles O38: what a completed operation has queued ends with a whole frame, since a block that completes one has its
parameters in their domains. -/
theorem framedOperationsLeaveTheIdleBus : Obligations.FramedOperationsLeaveTheIdleBus := by
  intro i s t hi _ h
  obtain ⟨u, he, rfl⟩ := perform_next h
  obtain ⟨hv, _, _⟩ := exec_next he
  obtain rfl := exec_next_eq he
  exact ⟨latchAfter_pinWrites hi hv _ _ .clk _, latchAfter_pinWrites hi hv _ _ .dio _⟩

/-- Settles O9: the body queues the start condition; its edges are read off the two events. -/
theorem startForcesBothLinesLow : Obligations.StartForcesBothLinesLow := by
  intro s ha
  have he : exec .start s = .next { s with q := Wire.start } := exec_of_body_emit ha id rfl
  refine ⟨decode_encode (i := .start) rfl, he, ?_, dataEdges_start, rfl, rfl⟩
  rw [perform_of_exec_queues ha he, latchAfter_start, latchAfter_start]
  rfl

/-- Settles O10: the body queues the stop condition; its edges are read off the three events. -/
theorem stopLeavesTheIdleBus : Obligations.StopLeavesTheIdleBus := by
  intro s ha
  have he : exec .stop s = .next { s with q := Wire.stop } := exec_of_body_emit ha id rfl
  refine ⟨decode_encode (i := .stop) rfl, he, ?_, dataEdges_stop, rfl, rfl⟩
  rw [perform_of_exec_queues ha he, latchAfter_stop, latchAfter_stop]
  rfl

end Sys2Proof.TransportFamily

/-! # Command layer family: what is queued and what is performed -/

namespace Sys2Proof.Machine

/-- A frame on its own: `D0 C0`, its bytes with nothing between them, `D0 C1 D1` (R50, R51). -/
theorem Wire.frames_singleton (bytes : List Byte) :
    Wire.frames [bytes] = [.d false, .c false] ++ bytes.flatMap Wire.byte ++ [.d false, .c true, .d true] := by
  simp [Wire.frame, Wire.start, Wire.stop]

/-- The display-control byte as a number: `0x80`, the power flag and the brightness do not overlap (R55, R82). -/
theorem controlByte_toNat (v : Power) (b : BitVec 3) :
    (controlByte v b).toNat = 0x80 + v.number.toNat + b.toNat := by
  revert b
  cases v with
  | off => decide
  | on => decide

section

variable {i : Instr} {s : State} (hi : commandLayer i = true) (ha : Accepting s)
include hi

/-- An operation of the command layer queues its pin writes and writes no register (R85). -/
theorem body_commandLayer : body i s = s.emit (pinWrites s.params s.seg s.control i) := by
  cases i with
  | datacmd | addrdata _ _ | dispctrl | dat _ _ =>
    simp [body_eq, State.emit, State.control, controlAfter]
  | _ => cases hi

include ha

/-- An accepted operation of the command layer has its pin writes pending, and nothing else is changed (R20, R85). -/
theorem exec_commandLayer : exec i s = .next { s with q := pinWrites s.params s.seg s.control i } := by
  have not_overlong : ¬overlong s.params i := by
    cases i with
    | showsegmentarray _ => cases hi
    | _ => exact id
  exact exec_of_body_emit ha not_overlong (body_commandLayer hi)

/-- Once performed, an operation of the command layer has left the idle bus and its pin writes in the trace (R80 to R83). -/
theorem perform_commandLayer :
    perform i s =
      .next { s with
        clk := some true
        dio := some true
        trace := s.trace ++ pinWrites s.params s.seg s.control i } := by
  have idle_after (l : Line) (v : Option Level) : latchAfter l (pinWrites s.params s.seg s.control i) v = some true :=
    latchAfter_pinWrites (.inr hi) ha.1 s.seg s.control l v
  rw [perform_of_exec_queues ha (exec_commandLayer hi ha), idle_after, idle_after]

end

end Sys2Proof.Machine

/-! ## The obligations of the family -/

namespace Sys2Proof.CommandFamily

open Sys2Proof.Machine

/-- Settles O14: the pin writes are one frame of two bytes. -/
theorem addrdataSendsAddressThenData : Obligations.AddrdataSendsAddressThenData := by
  intro s pos data ha
  refine ⟨decode_encode (i := .addrdata pos data) rfl, pinWrites s.params s.seg s.control (.addrdata pos data), ?events,
    by simp, exec_commandLayer rfl ha, perform_commandLayer rfl ha⟩
  case events =>
    rw [pinWrites, Wire.frames_singleton]
    simp [Wire.addressByte, position]

/-- Settles O15: the pin writes are one frame of the control byte, whose fields do not overlap. -/
theorem dispctrlSendsPowerAndBrightness : Obligations.DispctrlSendsPowerAndBrightness := by
  intro s ha
  refine ⟨decode_encode (i := .dispctrl) rfl, s.control, pinWrites s.params s.seg s.control .dispctrl,
    controlByte_toNat s.pwr s.bright, rfl, ?events, by simp, exec_commandLayer rfl ha, perform_commandLayer rfl ha⟩
  case events =>
    rw [pinWrites, Wire.frames_singleton]
    simp [State.control, controlByte]

/-- Settles O16: the pin writes are the three frames of `Wire.datFrames`. -/
theorem datWrapsOneDigitWrite : Obligations.DatWrapsOneDigitWrite := by
  intro s pos data ha
  refine ⟨decode_encode (i := .dat pos data) rfl, pinWrites s.params s.seg s.control (.dat pos data), ?frames,
    by simp, exec_commandLayer rfl ha, perform_commandLayer rfl ha⟩
  case frames =>
    simp [Wire.datFrames, Wire.dataCommand, Wire.addressByte, position, State.control, controlByte]

/-- Settles O13: the pin writes are one frame of the byte `0x40`, read off event by event. -/
theorem datacmdSendsItsFixedFrame : Obligations.DatacmdSendsItsFixedFrame := by
  intro s ha
  refine ⟨decode_encode (i := .datacmd) rfl, pinWrites s.params s.seg s.control .datacmd, ?events,
    exec_commandLayer rfl ha, perform_commandLayer rfl ha⟩
  case events => rfl

end Sys2Proof.CommandFamily

/-! # Digit encoding family: the table as a list, and the operation that reads it -/

namespace Sys2Proof.Machine

/-! ## The table -/

/-- The address never leaves the table: a pattern is the entry found there, not the default of the lookup (R90, R91). -/
theorem lut_getElem?_mod (v : Nat) : lut[v % 16]? = some (segmentPattern v) := by
  have in_table : v % 16 < lut.length := Nat.mod_lt v (by decide)
  simp [segmentPattern, digitAddress, in_table]

theorem segmentPattern_mem_lut (v : Nat) : segmentPattern v ∈ lut :=
  List.mem_of_getElem? (lut_getElem?_mod v)

theorem lut_nodup : lut.Nodup := by decide

/-- No entry has the decimal point set or is the blank glyph (R92). -/
theorem lut_pointless_and_lit : ∀ b ∈ lut, b[7] = false ∧ b ≠ 0x00#8 := by decide

/-- Two values have the same pattern exactly when they have the same address (R92). -/
theorem segmentPattern_eq_iff {v w : Nat} : segmentPattern v = segmentPattern w ↔ v % 16 = w % 16 :=
  have in_table : v % 16 < lut.length := Nat.mod_lt v (by decide)
  calc (segmentPattern v = segmentPattern w)
    _ ↔ (lut[v % 16]? = lut[w % 16]?) := by rw [lut_getElem?_mod, lut_getElem?_mod, Option.some_inj]
    _ ↔ v % 16 = w % 16 := List.getElem?_inj in_table lut_nodup

/-! ## The operation -/

/-- An operation that leaves nothing pending has the same result performed as accepted (R19). -/
theorem perform_of_exec_idle {i : Instr} {s t : State} (h : exec i s = .next t) (hq : t.q = []) :
    perform i s = .next t := by
  simp only [perform, h, drain_of_idle t hq]

/-- In an accepting block `ENC` returns the pattern and does nothing else (R91, log 5). -/
theorem exec_enc {s : State} (ha : Accepting s) (value : Nat) :
    exec (.enc value) s = .next (s.returnByte (segmentPattern value)) :=
  exec_eq_next_iff.2 ⟨id, ha, rfl⟩

end Sys2Proof.Machine

/-! ## The obligations of the family -/

namespace Sys2Proof.DigitFamily

open Sys2Proof.Machine

/-- Settles O19: the bytes listed are those of the block's table, and the address never leaves it. -/
theorem digitTableContents : Obligations.DigitTableContents :=
  lut_getElem?_mod

/-- Settles O20: `ENC` returns a byte and queues nothing, so that performing it adds nothing to accepting it. -/
theorem encReturnsTheTableByte : Obligations.EncReturnsTheTableByte := by
  intro s value ha
  exact ⟨decode_encode (i := .enc value) rfl, exec_enc ha value, perform_of_exec_idle (exec_enc ha value) ha.2⟩

/-- Settles O21: every pattern is an entry of the table, whose entries are lit, pointless and distinct. -/
theorem digitTableProperties : Obligations.DigitTableProperties := by
  refine ⟨fun v => lut_pointless_and_lit _ (segmentPattern_mem_lut v), fun v w hv hw h => ?_⟩
  rw [← Nat.mod_eq_of_lt hv, ← Nat.mod_eq_of_lt hw]
  exact segmentPattern_eq_iff.1 h

end Sys2Proof.DigitFamily

/-! # Display family: what an accepted operation leaves, and its counts -/

namespace Sys2Proof.Machine

/-! ## Accepted operations of tier B -/

/-- An accepting block performs an operation of tier B: the registers and the queue in closed form, nothing else changed. -/
theorem exec_tierB {i : Instr} {s : State} (hi : tierB i = true) (ha : Accepting s) (ho : ¬overlong s.params i) :
    exec i s =
      .next { s with
        seg := segAfter s.params s.seg i
        pwr := powerAfter s.pwr i
        bright := brightAfter s.params s.bright i
        q := pinWrites s.params s.seg (controlAfter s i) i } := by
  have none_returned : returnedBy i = [] := returnedBy_eq_nil fun v hv => by subst hv; cases hi
  refine exec_eq_next_iff.2 ⟨ho, ha, ?_⟩
  rw [body_eq, ha.2, none_returned, List.nil_append, List.append_nil]

/-- Two operations with the same body in a state have the same outcome there, refusals included. -/
theorem exec_congr {i j : Instr} {s : State} (hi : ¬overlong s.params i) (hj : ¬overlong s.params j)
    (h : body i s = body j s) : exec i s = exec j s := by
  rw [exec_eq_accept i s hi, exec_eq_accept j s hj, accept, accept, h]

/-- `INIT_LEVEL - 1` fits the three bits of `BRIGHT` (R4, R101). -/
theorem initBrightness_toNat {p : Params} (h : p.valid = true) : (initBrightness p).toNat = p.initLevel - 1 := by
  simp only [Params.valid, Bool.and_eq_true, decide_eq_true_eq] at h
  rw [initBrightness, BitVec.toNat_ofNat]
  omega

/-- `min(level, 8) - 1` fits the three bits of `BRIGHT` (R59, R102). -/
theorem brightnessOf_toNat {level : Int} (h : 1 ≤ level) : ((brightnessOf level).toNat : Int) = min level 8 - 1 := by
  rw [brightnessOf, BitVec.toNat_ofNat]
  omega

/-- The control byte of a display turned on (R55, R112). -/
theorem controlByte_on (b : BitVec 3) : controlByte .on b = 0x88#8 ||| b.zeroExtend 8 := rfl

/-- The control byte of a display turned off (R55, R113). -/
theorem controlByte_off (b : BitVec 3) : controlByte .off b = 0x80#8 ||| b.zeroExtend 8 := rfl

/-! ## The segment buffer after a loop -/

/-- Every position is an entry of a buffer of its one size (R57). -/
theorem position_lt_length {s : State} (hp : s.params.valid = true) (hs : SegSized s) (pos : Nat) :
    position s.params pos < s.seg.length := by
  rw [(Memory.wf_iff _ _).1 hs]
  exact Nat.mod_lt _ (Params.n_bounds hp).1

/-- Storing a byte at each position of a buffer of one size leaves exactly those bytes. -/
theorem storeEach_range {n : Nat} {m : Memory} (h : m.length = n) (data : Nat → Byte) :
    storeEach id data (List.range n) m = (List.range n).map data :=
  set_each_eq_map data n m h

/-- Storing at different indices can be done in any order (R109). -/
theorem storeEach_perm {α : Type} {index : α → Nat} {l l' : List α} (hl : l.Perm l')
    (inj : ∀ x ∈ l, ∀ y ∈ l, index x = index y → x = y) (data : α → Byte) (m : Memory) :
    storeEach index data l m = storeEach index data l' m := by
  refine hl.foldl_eq' (fun x hx y hy m => ?_) m
  by_cases hxy : x = y
  · rw [hxy]
  · exact List.set_comm _ _ fun h => hxy (inj x hx y hy h)

/-- A position nothing is stored at keeps its byte. -/
theorem storeEach_getElem?_of_ne {α : Type} {index : α → Nat} {l : List α} {j : Nat} (h : ∀ x ∈ l, index x ≠ j)
    (data : α → Byte) (m : Memory) : (storeEach index data l m)[j]? = m[j]? := by
  induction l generalizing m with
  | nil => rfl
  | cons x l ih =>
    have rest := ih (fun y hy => h y (List.mem_cons_of_mem x hy)) (m.set (index x) (data x))
    exact rest.trans (List.getElem?_set_ne (h x List.mem_cons_self))

/-- The padded bytes of `SHOWSEGMENTARRAY`, position by position (R61, R106). -/
theorem map_arrayByte_range {bytes : List Byte} {n : Nat} (h : bytes.length ≤ n) :
    (List.range n).map (arrayByte bytes) = bytes ++ List.replicate (n - bytes.length) 0x00#8 := by
  refine List.ext_getElem (by simp; omega) fun i hi _ => ?_
  by_cases hb : i < bytes.length <;> simp [arrayByte, hb, List.getElem_append]

/-- What `SHOWDIGITARRAY` shows at a position, from the three rules of R104. -/
theorem arrayPattern_eq_glyph {values : List Nat} {glyph : Nat → Byte}
    (digit : ∀ i v, values[i]? = some v → v ≤ 9 → glyph i = lut.getD v 0x00#8)
    (above : ∀ i v, values[i]? = some v → 9 < v → glyph i = 0x00#8)
    (missing : ∀ i, values.length ≤ i → glyph i = 0x00#8) : arrayPattern values = glyph := by
  funext i
  cases hv : values[i]? with
  | none => simp [arrayPattern, arrayDigit, hv, missing i (List.getElem?_eq_none_iff.1 hv)]
  | some v =>
    by_cases h9 : v ≤ 9
    · have hm : v % 16 = v := Nat.mod_eq_of_lt (by omega)
      simp [arrayPattern, arrayDigit, hv, h9, digit i v hv h9, segmentPattern, digitAddress, hm]
    · simp [arrayPattern, arrayDigit, hv, h9, above i v hv (by omega)]

/-! ## Equal operations -/

/-- An intensity below 1 is `OFF` (R102). -/
theorem body_intensity_of_lt {level : Int} (h : level < 1) (s : State) : body (.intensity level) s = body .off s := by
  simp [body, opIntensity_eq, h]

/-- An intensity above 8 is 8 (R59, R102). -/
theorem body_intensity_of_gt {level : Int} (h : 8 < level) (s : State) :
    body (.intensity level) s = body (.intensity 8) s := by
  have clamped : brightnessOf level = brightnessOf 8 := by
    rw [brightnessOf, brightnessOf, min_eq_right h.le, min_self]
  have above : ¬level < 1 := by omega
  simp [body, opIntensity_eq, clamped, above]

theorem body_showdigitarray_nil (x : Nat) (s : State) : body (.showdigitarray [] x) s = body .clear s := by
  rw [body, body, opShowdigitarray_eq, opClear_eq]
  rfl

theorem body_showsegmentarray_nil (s : State) : body (.showsegmentarray []) s = body .clear s := by
  rw [body, body, opShowsegmentarray_eq, opClear_eq]
  rfl

/-! ## The decimal point -/

theorem withPoint_bit7 (shown : Bool) (b : Byte) : (withPoint shown b)[7] = shown := by
  revert shown b
  decide

theorem withPoint_below (shown : Bool) (b : Byte) : ∀ k < 7, (withPoint shown b).getLsbD k = b.getLsbD k := by
  revert shown b
  decide

/-- Written back or not, the byte `TOGGLEDP` made of an entry is the one it makes of it again (R110). -/
theorem withPoint_getD_writeback (m : Memory) (shown : Bool) (i : Nat) (w : Bool) :
    withPoint shown ((if w then m.set i (withPoint shown (m.getD i 0x00#8)) else m).getD i 0x00#8) =
      withPoint shown (m.getD i 0x00#8) :=
  (AgreeBelowPoint.of_writeback m shown i w).symm.withPoint_getD shown i

theorem segAfter_toggledp_twice (p : Params) (m : Memory) (pos : Nat) (shown : Bool) :
    segAfter p (segAfter p m (.toggledp pos shown)) (.toggledp pos shown) = segAfter p m (.toggledp pos shown) := by
  rw [segAfter, segAfter, withPoint_getD_writeback]
  cases p.dpWriteback with
  | false => rfl
  | true => exact List.set_set ..

theorem pinWrites_toggledp_twice (p : Params) (m : Memory) (ctrl : Byte) (pos : Nat) (shown : Bool) :
    pinWrites p (segAfter p m (.toggledp pos shown)) ctrl (.toggledp pos shown) =
      pinWrites p m ctrl (.toggledp pos shown) := by
  rw [pinWrites, pinWrites, segAfter, withPoint_getD_writeback]

/-! ## Counts -/

/-- Five events a frame and twenty-six a byte (R51, R153). -/
theorem frames_length (fs : List (List Byte)) : (Wire.frames fs).length = 5 * fs.length + 26 * fs.flatten.length := by
  induction fs with
  | nil => rfl
  | cons f fs ih =>
    simp [ih]
    omega

/-- A frame raises the clock nine times a byte and once in its stop condition, from any clock level: its start condition
lowers the clock (R75 (4)). -/
theorem risingEdges_frame_of_any (c : Option Level) (bs : List Byte) :
    risingEdges c (Wire.frame bs) = 9 * bs.length + 1 := by
  have start_none (c : Option Level) : risingEdges c Wire.start = 0 := rfl
  rw [← risingEdges_frame, Wire.frame, List.append_assoc, risingEdges_append, risingEdges_append (some true), start_none,
    start_none, latchAfter_start, latchAfter_start]

theorem risingEdges_frames (c : Option Level) (fs : List (List Byte)) :
    risingEdges c (Wire.frames fs) = fs.length + 9 * fs.flatten.length := by
  induction fs generalizing c with
  | nil => rfl
  | cons f fs ih =>
    rw [Wire.frames_cons, risingEdges_append, risingEdges_frame_of_any, ih]
    simp
    omega

section

variable {α : Type} (index : α → Nat) (data : α → Byte) (ctrl : Byte) (l : List α)

/-- Three frames for each `DAT`. -/
theorem groups_length : (l.flatMap fun x => Wire.datFrames (index x) (data x) ctrl).length = 3 * l.length := by
  simp [List.length_flatMap, Nat.mul_comm]

/-- Four bytes for each `DAT`. -/
theorem groups_flatten_length :
    (l.flatMap fun x => Wire.datFrames (index x) (data x) ctrl).flatten.length = 4 * l.length := by
  induction l with
  | nil => rfl
  | cons x l ih =>
    rw [List.flatMap_cons, List.flatten_append, List.length_append, ih]
    simp [Wire.datFrames]
    omega

end

/-- `HEX_ORDER` in its domain is an order of the positions 0 to 3 (R4). -/
theorem Params.hexOrder_perm {p : Params} (h : p.valid = true) : p.hexOrder.Perm [0, 1, 2, 3] :=
  List.isPerm_iff.1 (Bool.and_eq_true_iff.1 h).2

/-- The two events `INIT` sends before its frames; no other operation sends any (R101). -/
def lowBefore (i : Instr) : List Event :=
  if i = .init then Wire.driveLow else []

/-- The pin writes of an operation of tier B or of the command layer are whole frames, after `C0 D0` for `INIT` alone; with
`k` frames and `b` bytes they are `5 k + 26 b` events after these and `k + 9 b` rising clock edges (R153). -/
theorem pinWrites_framed {p : Params} {i : Instr} (hi : tierB i = true ∨ commandLayer i = true) (hp : p.valid = true)
    (m : Memory) (ctrl : Byte) :
    ∃ fs : List (List Byte), pinWrites p m ctrl i = lowBefore i ++ Wire.frames fs
      ∧ fs.length = frameCount p i
      ∧ (lowBefore i).length + (5 * fs.length + 26 * fs.flatten.length) = eventCount p i
      ∧ fs.length + 9 * fs.flatten.length = edgeCount p i := by
  have one_each (data : Nat → Byte) : (Wire.datGroups p.n data ctrl).length = 3 * p.n
      ∧ (Wire.datGroups p.n data ctrl).flatten.length = 4 * p.n := by
    have hl := groups_length id data ctrl (List.range p.n)
    have hf := groups_flatten_length id data ctrl (List.range p.n)
    rw [List.length_range] at hl hf
    exact ⟨hl, hf⟩
  cases i with
  | datacmd | addrdata _ _ | dispctrl | dat _ _ | showdigit _ _ | showsegment _ _ | toggledp _ _ | on | off =>
    refine ⟨_, (List.nil_append (Wire.frames _)).symm, ?_⟩
    exact ⟨rfl, rfl, rfl⟩
  | intensity level =>
    refine ⟨_, rfl, ?_⟩
    by_cases h1 : level < 1 <;> by_cases hd : p.intensityDataCmd = true <;>
      simp [frameCount, eventCount, edgeCount, lowBefore, h1, hd]
  | init | clear | showdigitarray _ _ | showsegmentarray _ =>
    refine ⟨_, rfl, (one_each _).1, ?_, ?_⟩
    · rw [(one_each _).1, (one_each _).2]
      simp [eventCount, lowBefore, Wire.driveLow]
      omega
    · rw [(one_each _).1, (one_each _).2, edgeCount]
      omega
  | showhex value =>
    refine ⟨_, rfl, ?_⟩
    rw [groups_length, groups_flatten_length, (Params.hexOrder_perm hp).length_eq]
    exact ⟨rfl, rfl, rfl⟩
  | start | stop | writebyte _ | enc _ | wireData | wireAddr _ | wireCtrl _ _ => simp [tierB, commandLayer] at hi

/-- The number of pin writes of every operation (R153). -/
theorem pinWrites_length {p : Params} (hp : p.valid = true) (m : Memory) (ctrl : Byte) (i : Instr) :
    (pinWrites p m ctrl i).length = eventCount p i := by
  by_cases hi : tierB i = true ∨ commandLayer i = true
  · obtain ⟨fs, hfs, -, events, -⟩ := pinWrites_framed hi hp m ctrl
    rw [hfs, List.length_append, frames_length, events]
  · cases i with
    | start | stop | writebyte _ | enc _ | wireData | wireAddr _ | wireCtrl _ _ => rfl
    | _ => simp [tierB, commandLayer] at hi

/-- The rising clock edges of every operation from the clock level R153 names, those of `INIT` from any (R153). -/
theorem risingEdges_pinWrites {p : Params} (hp : p.valid = true) (m : Memory) (ctrl : Byte) {i : Instr} {c : Option Level}
    (hc : c = some (clockBefore i) ∨ i = .init) : risingEdges c (pinWrites p m ctrl i) = edgeCount p i := by
  by_cases hi : tierB i = true ∨ commandLayer i = true
  · obtain ⟨fs, hfs, -, -, edges⟩ := pinWrites_framed hi hp m ctrl
    have low_none : risingEdges c (lowBefore i) = 0 := by
      unfold lowBefore
      split <;> rfl
    rw [hfs, risingEdges_append, low_none, risingEdges_frames, edges, Nat.zero_add]
  · have hclk : c = some (clockBefore i) := hc.resolve_right fun h => hi (.inl (h ▸ rfl))
    subst hclk
    have one_byte (b : Byte) : risingEdges (some false) (Wire.byte b) = 9 := by simpa using risingEdges_bytes [b]
    cases i with
    | start | stop | enc _ => rfl
    | writebyte _ | wireData | wireAddr _ | wireCtrl _ _ => exact one_byte _
    | _ => simp [tierB, commandLayer] at hi

/-! ## `HEX_ORDER` -/

theorem Params.valid_of_hexOrder {p : Params} (h : p.valid = true) {order : List Nat}
    (ho : order.isPerm [0, 1, 2, 3] = true) : { p with hexOrder := order }.valid = true := by
  simp only [Params.valid, Bool.and_eq_true] at h ⊢
  exact ⟨h.1, ho⟩

/-- With four positions or more `SHOWHEX` has a position of its own for each digit (R108, R109). -/
theorem position_of_mem_hexOrder {p : Params} (hp : p.valid = true) (h4 : 4 ≤ p.n) :
    ∀ k ∈ p.hexOrder, k < 4 ∧ position p k = k := by
  intro k hk
  have h : k < 4 := List.mem_range.1 ((Params.mem_hexOrder hp k).1 hk)
  exact ⟨h, position_of_lt (by omega)⟩

/-- The group `SHOWHEX` sends for position `k`, which does not depend on `HEX_ORDER` (R108). -/
def hexGroup (s : State) (value : BitVec 16) (k : Nat) : List (List Byte) :=
  Wire.datFrames (position s.params k) (segmentPattern (nibble value k)) s.control

theorem pinWrites_showhex (s : State) (value : BitVec 16) :
    pinWrites s.params s.seg s.control (.showhex value) =
      Wire.frames (s.params.hexOrder.map (hexGroup s value)).flatten := by
  rw [← List.flatMap_def]
  rfl

end Sys2Proof.Machine

/-! ## The obligations of the family -/

namespace Sys2Proof.DisplayFamily

open Sys2Proof.Machine

/-- Settles O6: `INIT` overwrites the three registers, and the rest of the block is as at reset release. -/
theorem resetIsTheAcceptanceOfInit : Obligations.ResetIsTheAcceptanceOfInit := by
  intro p m v b hp
  exact exec_tierB rfl ⟨hp, rfl⟩ id

/-- Settles O22: the pin writes of `INIT` are `Wire.initTrace`. -/
theorem initClearsEveryPosition : Obligations.InitClearsEveryPosition := by
  intro s ha
  refine ⟨decode_encode (i := .init) rfl, initBrightness s.params,
    pinWrites s.params s.seg (controlByte .on (initBrightness s.params)) .init, initBrightness_toNat ha.1, ?frames,
    pinWrites_length ha.1 _ _ _, exec_tierB rfl ha id⟩
  case frames =>
    rw [← controlByte_on]
    rfl

/-- Settles O23: the three ranges of the level. -/
theorem intensityClampsAndShifts : Obligations.IntensityClampsAndShifts := by
  intro s level
  refine ⟨decode_encode (i := .intensity level) rfl, fun ha h1 => ?_, fun h => ?_, fun h => ?_⟩
  · have on : ¬level < 1 := by omega
    refine ⟨brightnessOf level, pinWrites s.params s.seg (controlByte .on (brightnessOf level)) (.intensity level),
      brightnessOf_toNat h1, ?frames, (pinWrites_length ha.1 _ _ _).trans (if_neg on), ?outcome⟩
    case frames =>
      cases hd : s.params.intensityDataCmd <;> simp [hd, on, controlByte_on, Wire.dataCommand]
    case outcome =>
      rw [exec_tierB rfl ha id]
      simp [on, controlAfter]
  · exact exec_congr id id (body_intensity_of_lt h s)
  · exact exec_congr id id (body_intensity_of_gt h s)

/-- Settles O25: the byte stored is at a position below `N`, where the buffer has an entry. -/
theorem showsegmentStoresAndSendsTheRawByte : Obligations.ShowsegmentStoresAndSendsTheRawByte := by
  intro s pos rawByte ha hs
  have in_buffer : position s.params pos < s.seg.length := position_lt_length ha.1 hs pos
  exact ⟨decode_encode (i := .showsegment pos rawByte) rfl, _, exec_tierB rfl ha id, rfl,
    pinWrites_length ha.1 s.seg s.control (.showsegment pos rawByte), List.getElem?_set_self in_buffer,
    fun j hj => List.getElem?_set_ne hj.symm⟩

/-- Settles O24: a digit is shown as its pattern is. -/
theorem showdigitStoresAndSendsThePattern : Obligations.ShowdigitStoresAndSendsThePattern := by
  intro s value pos ha hs
  obtain ⟨_, shown⟩ := showsegmentStoresAndSendsTheRawByte s pos (segmentPattern value) ha hs
  exact ⟨decode_encode (i := .showdigit value pos) rfl, shown⟩

/-- Settles O26: the glyphs are the patterns shown. -/
theorem showdigitarrayShowsDigitsAndBlanks : Obligations.ShowdigitarrayShowsDigitsAndBlanks := by
  intro s values blankPos glyph ha hs digit above missing
  obtain rfl := arrayPattern_eq_glyph digit above missing
  refine ⟨decode_encode (i := .showdigitarray values blankPos) rfl, ?_⟩
  rw [exec_tierB rfl ha id, segAfter, storeEach_range ((Memory.wf_iff _ _).1 hs)]
  rfl

/-- Settles O28: the bytes stored position by position are the padded list; a longer list is refused before anything else is
looked at. -/
theorem showsegmentarrayPadsOrRefuses : Obligations.ShowsegmentarrayPadsOrRefuses := by
  intro s bytes
  refine ⟨rfl, fun ha hs hb => ?_, exec_overlong s bytes⟩
  rw [exec_tierB (i := .showsegmentarray bytes) rfl ha hb.not_gt, segAfter, storeEach_range ((Memory.wf_iff _ _).1 hs),
    map_arrayByte_range hb]
  rfl

/-- Settles O34: zero is stored at every position and sent there. -/
theorem clearBlanksEveryPosition : Obligations.ClearBlanksEveryPosition := by
  intro s ha hs
  refine ⟨decode_encode (i := .clear) rfl, ?_⟩
  rw [exec_tierB rfl ha id, segAfter, storeEach_range ((Memory.wf_iff _ _).1 hs), List.map_const', List.length_range]
  rfl

/-- Settles O35: an empty list shows `0x00` at every position, as `CLEAR` does. -/
theorem emptyArraysAreClear : Obligations.EmptyArraysAreClear := fun s x =>
  ⟨exec_congr (Nat.not_lt_zero _) id (body_showsegmentarray_nil s), exec_congr id id (body_showdigitarray_nil x s)⟩

/-- Settles O27: the closed form of the body has no `blankPos`. -/
theorem blankPosHasNoEffect : Obligations.BlankPosHasNoEffect := by
  intro s values a b
  refine exec_congr id id ?_
  rw [body, body, opShowdigitarray_eq, opShowdigitarray_eq]

/-- Settles O36: the control byte of a display turned on has bit 3 set. -/
theorem onKeepsBrightnessAndBuffer : Obligations.OnKeepsBrightnessAndBuffer := by
  intro s ha
  refine ⟨decode_encode (i := .on) rfl, pinWrites s.params s.seg (controlByte .on s.bright) .on, ?frames,
    pinWrites_length ha.1 _ _ _, exec_tierB rfl ha id⟩
  case frames =>
    simp [controlByte_on, Wire.dataCommand]

/-- Settles O37: the control byte of a display turned off has bit 3 clear. -/
theorem offKeepsBrightnessAndBuffer : Obligations.OffKeepsBrightnessAndBuffer := by
  intro s ha
  refine ⟨decode_encode (i := .off) rfl, pinWrites s.params s.seg (controlByte .off s.bright) .off, ?frames,
    pinWrites_length ha.1 _ _ _, exec_tierB rfl ha id⟩
  case frames =>
    simp [controlByte_off, Wire.dataCommand]

/-- Settles O30: each order is a permutation of the positions 0 to 3, and each of these is stored and sent on its own. -/
theorem hexOrderPermutesGroupsOnly : Obligations.HexOrderPermutesGroupsOnly := by
  intro s value order ha _ h4 ho
  have hp := Params.hexOrder_perm ha.1
  have hperm : s.params.hexOrder.Perm order := hp.trans (List.isPerm_iff.1 ho).symm
  have own := position_of_mem_hexOrder ha.1 h4
  refine ⟨_, _, s.params.hexOrder.map (hexGroup s value), order.map (hexGroup s value), exec_tierB rfl ha id,
    exec_tierB rfl ⟨Params.valid_of_hexOrder ha.1 ho, ha.2⟩ id, ?seg, rfl, rfl, pinWrites_showhex s value,
    pinWrites_showhex { s with params := { s.params with hexOrder := order } } value, hperm.map _, ?count, ?three, ?above⟩
  case seg =>
    have inj : ∀ x ∈ s.params.hexOrder, ∀ y ∈ s.params.hexOrder,
        position s.params x = position s.params y → x = y := by
      intro x hx y hy hxy
      rwa [(own x hx).2, (own y hy).2] at hxy
    exact (storeEach_perm hperm inj _ s.seg).symm
  case count => exact List.length_map _ |>.trans hp.length_eq
  case three =>
    intro g hg
    obtain ⟨k, _, rfl⟩ := List.mem_map.1 hg
    rfl
  case above =>
    intro j hj
    refine storeEach_getElem?_of_ne (fun k hk => ?_) _ s.seg
    obtain ⟨hk4, hkp⟩ := own k hk
    omega

/-- Settles O31: the byte sent is `withPoint` of the stored one. -/
theorem toggledpSetsOrClearsThePoint : Obligations.ToggledpSetsOrClearsThePoint := by
  intro s pos shown b ha hb
  refine ⟨decode_encode (i := .toggledp pos shown) rfl, withPoint shown b, rfl, withPoint_bit7 shown b,
    withPoint_below shown b, ?_⟩
  have stored : s.seg.getD (position s.params pos) 0x00#8 = b := by rw [List.getD, position, hb]; rfl
  rw [exec_tierB rfl ha id, pinWrites, segAfter, stored]
  rfl

/-- Settles O32: the entry read is the byte just stored, and `TOGGLEDP` makes the same byte of its own result. -/
theorem pointAfterSegmentIsIdempotent : Obligations.PointAfterSegmentIsIdempotent := by
  intro s t pos b shown hs h
  obtain ⟨r, he, rfl⟩ := perform_next h
  obtain ⟨hp, _, _⟩ := exec_next he
  obtain rfl := exec_next_eq he
  have stored : (s.seg.set (position s.params pos) b).getD (position s.params pos) 0x00#8 = b := by
    rw [List.getD, List.getElem?_set_self (position_lt_length hp hs pos), Option.getD_some]
  refine ⟨_, _, exec_tierB (i := .toggledp pos shown) rfl ⟨hp, rfl⟩ id,
    exec_tierB (i := .toggledp pos shown) rfl ⟨hp, rfl⟩ id, ?sent, pinWrites_toggledp_twice _ _ _ pos shown,
    segAfter_toggledp_twice _ _ pos shown, rfl, rfl⟩
  case sent =>
    simp only [State.drain, pinWrites, segAfter, stored]
    rfl

/-- Settles O43: only the overlong list is refused by an accepting block. -/
theorem everyOperationCompletes : Obligations.EveryOperationCompletes := by
  intro i s ha
  by_cases ho : overlong s.params i
  · cases i with
    | showsegmentarray bytes => exact .inr ⟨bytes, rfl, ho, exec_of_overlong ho⟩
    | _ => cases ho
  · exact .inl ⟨_, exec_eq_next_iff.2 ⟨ho, ha, rfl⟩⟩

/-- Settles O45, by the frames of the pin writes in the closed form. -/
theorem eventFrameAndEdgeCounts : Obligations.EventFrameAndEdgeCounts := by
  intro i s t h
  obtain ⟨hp, _, _⟩ := exec_next h
  obtain rfl := exec_next_eq h
  refine ⟨pinWrites_length hp _ _ i, fun c hc => risingEdges_pinWrites hp _ _ hc, fun hi => ?_⟩
  obtain ⟨fs, hfs, count, -, -⟩ := pinWrites_framed hi hp s.seg (controlAfter s i)
  exact ⟨lowBefore i, fs, hfs, count, rfl⟩

end Sys2Proof.DisplayFamily

/-! # Exceptions family: the refusals, and reset asserted by the host -/

namespace Sys2Proof.Machine

/-! ## The refusals, by name -/

/-- A block with events pending refuses the acceptance of anything (R125 item 2, R149). -/
theorem accept_of_busy {s : State} (body : State → State) (hv : s.params.valid = true) (hq : s.q ≠ []) :
    accept s body = .refused .busy := by
  have hb : s.busy = true := (State.busy_iff s).2 hq
  simp [accept, hv, hb]

/-- A block with a parameter outside its domain refuses the acceptance of anything, busy or not (R125 item 4). -/
theorem accept_of_misconfigured {s : State} (body : State → State) (hv : s.params.valid = false) :
    accept s body = .refused .badConfiguration := by
  simp [accept, hv]

/-- Such a block refuses every step as well. -/
theorem step_of_misconfigured {s : State} (hv : s.params.valid = false) : step s = .refused .badConfiguration := by
  simp [step, sequencerStep, hv]

theorem hostReset_of_misconfigured {s : State} (hv : s.params.valid = false) :
    hostReset s = .refused .badConfiguration := by
  simp [hostReset, hv]

/-- An operation whose list, if it is the one with a list, has at most `N` bytes is not the overlong one (R106). -/
theorem not_overlong_of_length_le {p : Params} {i : Instr}
    (h : ∀ bytes, i = .showsegmentarray bytes → bytes.length ≤ p.n) : ¬overlong p i := by
  cases i with
  | showsegmentarray bytes => exact (h bytes rfl).not_gt
  | _ => exact id

/-! ## Reset release with requests waiting -/

/-- Requests the host has left neither delay the events of `INIT` nor are taken before they are out (R141). -/
theorem run_resetWith_requests {p : Params} (hp : p.valid = true) (rs : List Request) :
    Host.Core.run Sys2Proof.core (2 + 119 * p.n) { State.resetWith p with requests := rs }
      = .next { State.readyWith p with requests := rs } := by
  rw [← resetWith_q_length p, ← drain_resetWith hp]
  exact run_drain (s := { State.resetWith p with requests := rs }) hp

end Sys2Proof.Machine

/-! ## The obligations of the family -/

namespace Sys2Proof.ExceptionFamily

open Sys2Proof.Machine

/-- Settles O8: reset discards the pending events of any state, and the events of `INIT` then drain with the host's
requests waiting. -/
theorem hostResetRestartsWithInit : Obligations.HostResetRestartsWithInit :=
  fun s => ⟨fun hv => ⟨_, hostReset_next s hv, rfl, run_resetWith_requests hv s.requests⟩, hostReset_of_misconfigured⟩

/-- Settles O44: outside the overlong list an operation is one acceptance, which names the configuration before busy. -/
theorem busyOrMisconfiguredBlockRefuses : Obligations.BusyOrMisconfiguredBlockRefuses := by
  intro i s
  refine ⟨fun hv hq hb => ?busy, fun hv hb => ?misconfigured, step_of_misconfigured, ?overlong⟩
  case busy => rw [exec_eq_accept i s (not_overlong_of_length_le hb), accept_of_busy _ hv hq]
  case misconfigured => rw [exec_eq_accept i s (not_overlong_of_length_le hb), accept_of_misconfigured _ hv]
  case overlong =>
    rintro bytes rfl
    exact exec_overlong s bytes

end Sys2Proof.ExceptionFamily

/-! # Reset and hazard family: the idle step -/

namespace Sys2Proof.Machine

/-- The third case of the step, beside `step_busy` and `step_idle`: nothing pending and nothing asked (R155, log 7). -/
theorem step_runOver {s : State} (hv : s.params.valid = true) (ho : RunOver s) : step s = .next s := by
  obtain ⟨hr, hq⟩ := ho
  simp [step, sequencerStep, hv, hq, hr]

end Sys2Proof.Machine

/-! ## The obligations of the family -/

namespace Sys2Proof.ResetAndHazardFamily

open Sys2Proof.Machine

/-- Settles O3: an accepting block has valid parameters, so its step with nothing asked is the stutter. -/
theorem idleStepChangesNothing : Obligations.IdleStepChangesNothing :=
  fun _ ha => step_runOver ha.1

end Sys2Proof.ResetAndHazardFamily
